-- ==== Sys2Proof/Word.lean ====
section
/-! DEFINITION. The two fixed widths of the block: a byte is 8 bits, a register word is 32 bits (00_scope R7). -/

namespace Sys2Proof

/-- A 32-bit register word (00_scope R7). -/
abbrev Word := BitVec 32

/-- An 8-bit byte (00_scope R7). -/
abbrev Byte := BitVec 8

end Sys2Proof
end

