-- ==== Sys2Proof/Syntax.lean ====
section
/-! DEFINITION. The commands of the block: one constructor per row of spec/opcode_table.json (30_encoding R95). -/

namespace Sys2Proof

/-- A command of the block. The operand is the index `n` of the assembler syntax (30_encoding R100): a message
descriptor index or a limiter channel index (R92). `clr` is the suffix `.C` of `ENCODE` (R93). -/
inductive Instr where
  /-- `NOP` (43_control R230). -/
  | nop
  /-- `ENCODE n` and, with `clr`, `ENCODE.C n` (40_codec R128). -/
  | encode (idx : Nat) (clr : Bool)
  /-- `DECODE n` (40_codec R129). -/
  | decode (idx : Nat)
  /-- `CSCOMP n` (41_checksum_counter R163). -/
  | cscomp (idx : Nat)
  /-- `CSINS n` (41_checksum_counter R164). -/
  | csins (idx : Nat)
  /-- `CSVAL n` (41_checksum_counter R165). -/
  | csval (idx : Nat)
  /-- `CNTRD n` (41_checksum_counter R167). -/
  | cntrd (idx : Nat)
  /-- `CNTWR n` (41_checksum_counter R168). -/
  | cntwr (idx : Nat)
  /-- `CNTNXT n` (41_checksum_counter R169). -/
  | cntnxt (idx : Nat)
  /-- `LOOKUP` (43_control R233). -/
  | lookup
  /-- `VCLR` (40_codec R130). -/
  | vclr
  /-- `LOCK` (43_control R231). -/
  | lock
  /-- `LSTEP n` (42_limiter R210). -/
  | lstep (idx : Nat)
  /-- `LRST n` (42_limiter R211). -/
  | lrst (idx : Nat)
  deriving DecidableEq, Repr

end Sys2Proof
end

