-- ==== Sys2Proof/WellFormed.lean ====
section
/-! DEFINITION. Which commands have an encoding: an operand is an integer from 0 to 255 (30_encoding R100). An index at or
above NMSG or NCHAN is well formed; it fails at run time (R92, R100). -/

namespace Sys2Proof

/-- The operand check of the assembler: "An assembler refuses an operand above 255" (30_encoding R100). -/
def operandOk (n : Nat) : Bool := decide (n ≤ 255)

/-- The command has an encoding. -/
def wellFormed : Instr → Bool
  | .nop => true
  | .encode idx _ => operandOk idx
  | .decode idx => operandOk idx
  | .cscomp idx => operandOk idx
  | .csins idx => operandOk idx
  | .csval idx => operandOk idx
  | .cntrd idx => operandOk idx
  | .cntwr idx => operandOk idx
  | .cntnxt idx => operandOk idx
  | .lookup => true
  | .vclr => true
  | .lock => true
  | .lstep idx => operandOk idx
  | .lrst idx => operandOk idx

end Sys2Proof
end

