-- ==== Sys2Proof/Decode.lean ====
section
/-! DEFINITION. The command word: its fields (30_encoding R90), the decoder (R91 to R97), the encoder (R100) and the opcode
table as the spec prints it (R95). -/

namespace Sys2Proof

/-- Why a word is no command (30_encoding R97); the block answers each with `ILLEGAL_CMD`. -/
inductive Reject where
  /-- A bit of `CMD[31:17]` is set (R94). -/
  | reservedBits
  /-- `CLR = 1` with an opcode other than `ENCODE` (R93). -/
  | clrNotAllowed
  /-- `IDX` is not 0 with `NOP`, `LOOKUP`, `VCLR` or `LOCK` (R92). -/
  | idxNotZero
  /-- An `OP` value the table does not define (R91). -/
  | undefinedOpcode (op : Byte)
  deriving DecidableEq, Repr

/-- `OP = CMD[7:0]` (R90). -/
def opField (w : Word) : Byte := w.extractLsb' 0 8

/-- `IDX = CMD[15:8]` (R90). -/
def idxField (w : Word) : Byte := w.extractLsb' 8 8

/-- `CLR = CMD[16]` (R90). -/
def clrField (w : Word) : Bool := w.getLsbD 16

/-- The reserved field `CMD[31:17]` (R94). -/
def reservedField (w : Word) : BitVec 15 := w.extractLsb' 17 15

/-- A command with an index operand and no `CLR` (R93, R96). -/
def decodeIndexed (w : Word) (mk : Nat → Instr) : Except Reject Instr :=
  if clrField w then .error .clrNotAllowed else .ok (mk (idxField w).toNat)

/-- A command without operands: `IDX` and `CLR` must be 0 (R96). -/
def decodePlain (w : Word) (i : Instr) : Except Reject Instr :=
  if clrField w then .error .clrNotAllowed
  else if idxField w = 0 then .ok i else .error .idxNotZero

/-- The decoder: total, and every word that matches no row of R95 is rejected by name (R91 to R97). -/
def decode (w : Word) : Except Reject Instr :=
  if reservedField w = 0 then
    match (opField w).toNat with
    | 0x00 => decodePlain w .nop
    | 0x01 => .ok (.encode (idxField w).toNat (clrField w))
    | 0x02 => decodeIndexed w .decode
    | 0x03 => decodeIndexed w .cscomp
    | 0x04 => decodeIndexed w .csins
    | 0x05 => decodeIndexed w .csval
    | 0x06 => decodeIndexed w .cntrd
    | 0x07 => decodeIndexed w .cntwr
    | 0x08 => decodeIndexed w .cntnxt
    | 0x09 => decodePlain w .lookup
    | 0x0A => decodePlain w .vclr
    | 0x0F => decodePlain w .lock
    | 0x10 => decodeIndexed w .lstep
    | 0x11 => decodeIndexed w .lrst
    | _ => .error (.undefinedOpcode (opField w))
  else .error .reservedBits

/-- The word with the given fields and the reserved bits 0 (R90). -/
def commandWord (op : Byte) (idx : Nat) (clr : Bool) : Word :=
  op.setWidth 32 ||| ((BitVec.ofNat 8 idx).setWidth 32 <<< 8) ||| ((BitVec.ofBool clr).setWidth 32 <<< 16)

/-- The encoder: the word of a well-formed command (R100). -/
def encode : Instr → Word
  | .nop => commandWord 0x00 0 false
  | .encode idx clr => commandWord 0x01 idx clr
  | .decode idx => commandWord 0x02 idx false
  | .cscomp idx => commandWord 0x03 idx false
  | .csins idx => commandWord 0x04 idx false
  | .csval idx => commandWord 0x05 idx false
  | .cntrd idx => commandWord 0x06 idx false
  | .cntwr idx => commandWord 0x07 idx false
  | .cntnxt idx => commandWord 0x08 idx false
  | .lookup => commandWord 0x09 0 false
  | .vclr => commandWord 0x0A 0 false
  | .lock => commandWord 0x0F 0 false
  | .lstep idx => commandWord 0x10 idx false
  | .lrst idx => commandWord 0x11 idx false

/-- The row of the opcode map that a command belongs to. -/
def mnemonicOf : Instr → String
  | .nop => "NOP"
  | .encode _ _ => "ENCODE"
  | .decode _ => "DECODE"
  | .cscomp _ => "CSCOMP"
  | .csins _ => "CSINS"
  | .csval _ => "CSVAL"
  | .cntrd _ => "CNTRD"
  | .cntwr _ => "CNTWR"
  | .cntnxt _ => "CNTNXT"
  | .lookup => "LOOKUP"
  | .vclr => "VCLR"
  | .lock => "LOCK"
  | .lstep _ => "LSTEP"
  | .lrst _ => "LRST"

/-- A row of the opcode map as R95 prints it. -/
structure OpcodeRow where
  mnemonic : String
  pattern : Word
  mask : Word
  deriving DecidableEq, Repr

/-- "A word `W` is the command of a row iff `(W AND mask) = match`" (R95). -/
def OpcodeRow.covers (r : OpcodeRow) (w : Word) : Bool := decide (w &&& r.mask = r.pattern)

/-- The opcode map, `match` and `mask` copied from R95. -/
def opcodeMap : List OpcodeRow :=
  [⟨"NOP", 0x00000000, 0xFFFFFFFF⟩, ⟨"ENCODE", 0x00000001, 0xFFFE00FF⟩,
   ⟨"DECODE", 0x00000002, 0xFFFF00FF⟩, ⟨"CSCOMP", 0x00000003, 0xFFFF00FF⟩,
   ⟨"CSINS", 0x00000004, 0xFFFF00FF⟩, ⟨"CSVAL", 0x00000005, 0xFFFF00FF⟩,
   ⟨"CNTRD", 0x00000006, 0xFFFF00FF⟩] ++
  [⟨"CNTWR", 0x00000007, 0xFFFF00FF⟩, ⟨"CNTNXT", 0x00000008, 0xFFFF00FF⟩,
   ⟨"LOOKUP", 0x00000009, 0xFFFFFFFF⟩, ⟨"VCLR", 0x0000000A, 0xFFFFFFFF⟩,
   ⟨"LOCK", 0x0000000F, 0xFFFFFFFF⟩, ⟨"LSTEP", 0x00000010, 0xFFFF00FF⟩,
   ⟨"LRST", 0x00000011, 0xFFFF00FF⟩]

/-- The command the decoder reads from a table word of `nbits` bits; bits above `nbits` are 0. A command is one 32-bit
word (R90), so the table's bit numbers are the word's own. -/
def decodeTableWord (nbits w : Nat) : Option Instr :=
  (decode (BitVec.ofNat 32 (w % 2 ^ nbits))).toOption

end Sys2Proof
end

