-- ==== Sys2Proof/Config.lean ====
section
/-! DEFINITION. What is fixed for the block (00_scope R6) and the values the spec leaves free (93_implementation_defined U1 to U3). -/

namespace Sys2Proof.Config

/-- `MAX_LEN`: the size of the frame buffer in bytes (R6). -/
abbrev maxLen : Nat := 64

/-- `NMSG`: the number of message descriptors (R6). -/
abbrev nmsg : Nat := 64

/-- `NSIG`: the number of signal descriptors (R6). -/
abbrev nsig : Nat := 512

/-- `MAX_SIGS`: the largest number of signals in one message, and the number of value slots (R6). -/
abbrev maxSigs : Nat := 64

/-- `NCHAN`: the number of limiter channels (R6). -/
abbrev nchan : Nat := 2

/-- `MAX_SIGLEN`: the largest signal bit length (R6). -/
abbrev maxSigLen : Nat := 64

/-- `MAX_CNTW`: the largest rolling-counter width (R6). -/
abbrev maxCntW : Nat := 16

/-- The read-only constant `PARAMS0`: NMSG in [31:16], NCHAN in [15:8], MAX_LEN in [7:0] (R22). -/
def params0 : Word := BitVec.ofNat 32 (nmsg * 2 ^ 16 + nchan * 2 ^ 8 + maxLen)

/-- The read-only constant `PARAMS1`: MAX_SIGS in [23:16], NSIG in [15:0] (R22). -/
def params1 : Word := BitVec.ofNat 32 (maxSigs * 2 ^ 16 + nsig)

/-- FREE VALUE (U1, R71; log 3): what a read of a data register returns while a command runs.
Applied to the draw counter, so that two reads need not agree. -/
opaque busyRead : Nat → Word

/-- FREE VALUE (U2, R290; log 2): the delay of a command whose delay the environment has not supplied.
Applied to the draw counter, so that two runs of one command need not agree. -/
opaque latency : Nat → Nat

/-- FREE PARAMETER (U3, R6; log 6): which 64 KiB block of the host's address space the window is. -/
opaque baseIndex : Nat

/-- `BASE`: the host address of the window; 64 KiB aligned and otherwise free (R6, R60, D2). -/
def base : Nat := 65536 * baseIndex

end Sys2Proof.Config
end

