-- ==== Sys2Proof/Machine/State.lean ====
section
/-! DEFINITION. The state of the block as plain data (10_state R20 to R50), the two ends a step can come to beside a next
state, and the state after reset (R50). INVENTORY.md lists every field with its rule and its reset value. -/

namespace Sys2Proof.Machine

/-- Why a step stops. -/
inductive Fault where
  /-- `BusError` (20_memory R67, 60_exceptions R256): raised by a host access of the wrong width, or at an offset that is
  no multiple of 4; it carries that offset. The fault of the host's access; the block's state does not change. Safe: the
  run stops where the host would go on (log 5). -/
  | busError (offset : BitVec 16)
  deriving DecidableEq, Repr

/-- Why an instruction has no meaning here. No command of this block is refused. -/
inductive Refusal where
  /-- Raised by an arm of `exec` for an instruction that has no meaning yet; no arm raises it. Safe. -/
  | notModelled (mnemonic : String)
  deriving DecidableEq, Repr

/-- The error codes of `STATUS.ERR`, in the order of their numbers 0 to 10 (60_exceptions R251). -/
inductive ErrCode where
  | none | illegalCmd | notLocked | alreadyLocked | badIndex | badDescriptor | lengthMismatch
  | noChecksum | noCounter | unknownAddress | badValue
  deriving DecidableEq, Repr

/-- The fields of `ERR_INFO` (10_state R28). -/
structure ErrInfo where
  index : Byte
  slot : Byte
  check : Byte
  kind : Byte
  deriving DecidableEq, Repr

/-- The two phases (60_exceptions R260). -/
inductive Phase where
  | config | operate
  deriving DecidableEq, Repr

/-- The checksum strategy `CS_ALG` (10_state R37, 41_checksum_counter R162). -/
inductive CsAlg where
  | none | crc8 | passthrough | counterOnly
  deriving DecidableEq, Repr

/-- One slot of the value file (10_state R33 to R36). -/
structure Slot where
  /-- `NUM`, signed. -/
  num : BitVec 128
  /-- `DEN`, unsigned. -/
  den : BitVec 64
  raw : BitVec 64
  /-- `VFLAGS.PRESENT`. -/
  present : Bool
  /-- `VFLAGS.OOR`, read-only to the host. -/
  oor : Bool
  /-- `VFLAGS.RAW_IN`. -/
  rawIn : Bool
  deriving DecidableEq, Repr

/-- A slot after reset and after `VCLR`: `DEN = 1`, all else 0 (10_state R50, 40_codec R130). -/
def Slot.reset : Slot := ⟨0, 1, 0, false, false, false⟩

/-- A message descriptor (10_state R37 to R41). -/
structure MsgDesc where
  en : Bool
  csAlg : CsAlg
  cntEn : Bool
  len : Byte
  sigCount : Byte
  addr : Word
  bus : Byte
  sigFirst : BitVec 16
  csStart : Byte
  csEnd : Byte
  csExcl : Byte
  csPos : Byte
  csFxor : Byte
  cntStart : BitVec 16
  cntW : BitVec 5
  cntBe : Bool
  deriving DecidableEq, Repr

/-- A message descriptor after reset: every word 0 (10_state R50). -/
def MsgDesc.reset : MsgDesc := ⟨false, .none, false, 0, 0, 0, 0, 0, 0, 0, 0, 0, 0, 0, 0, false⟩

/-- A signal descriptor (10_state R42, R43). -/
structure SigDesc where
  start : BitVec 16
  length : BitVec 7
  signed : Bool
  be : Bool
  scaleNum : Word
  scaleDen : Word
  offNum : Word
  offDen : Word
  deriving DecidableEq, Repr

/-- A signal descriptor after reset: every word 0 (10_state R50). -/
def SigDesc.reset : SigDesc := ⟨0, 0, false, false, 0, 0, 0, 0⟩

/-- A limiter channel: its configuration (10_state R44, R45) and its LimiterState (R46). -/
structure Channel where
  max : Word
  deltaUp : Word
  deltaDown : Word
  drvAllow : Word
  drvMult : Word
  drvFactor : Word
  errThresh : Word
  errMax : Word
  en : Bool
  fbSel : Bool
  /-- `LAST`, signed: the last applied output. -/
  last : Word
  /-- `ERR_ACC`, unsigned: the error accumulator. -/
  errAcc : Word
  /-- `CH_FLAGS.TEMP`. -/
  temp : Bool
  /-- `CH_FLAGS.PERM`. -/
  perm : Bool
  /-- `CH_FLAGS.OVERRIDE`. -/
  ovr : Bool
  deriving DecidableEq, Repr

/-- A channel after reset: every word 0 (10_state R50). -/
def Channel.reset : Channel :=
  ⟨0, 0, 0, 0, 0, 0, 0, 0, false, false, 0, 0, false, false, false⟩

/-- What one tick of the limiter computes (42_limiter R210), before it is stored. -/
structure LimiterTick where
  applied : Int
  acc : Int
  temp : Bool
  perm : Bool
  ovr : Bool
  /-- `DCLAMP` (R202). -/
  dclamp : Bool
  /-- `RCLAMP` (R205). -/
  rclamp : Bool
  deriving DecidableEq, Repr

/-- The frame buffer as a memory: (address, byte) pairs, addresses strictly rising, none listed with the byte an unlisted
address reads as, which is 0 (10_state R32, R50; log 8). -/
abbrev Memory := List Host.Cell

/-- What the outside world does next: the host's accesses, by their width in bytes and their offset in the window
(00_scope R10, 20_memory R67), and the reset pin (70_reset R280). -/
inductive HostEvent where
  /-- The host does nothing in this step. -/
  | idle
  | read (width : Nat) (offset : BitVec 16)
  | write (width : Nat) (offset : BitVec 16) (value : Word)
  /-- The reset input takes this level. -/
  | setReset (level : Bool)
  deriving DecidableEq, Repr

/-- The bus response to the last access served: the host's observation (00_scope R5). -/
inductive BusReply where
  | none
  | data (value : Word)
  | written
  /-- An access made while reset is asserted is not accepted (70_reset R280). -/
  | notAccepted
  deriving DecidableEq, Repr

/-- What a word offset of the window names (20_memory R74), with the number of the word inside a table entry. -/
inductive Target where
  | params0 | params1 | ctrl | status | cmd | errInfo | result0 | result1 | flen
  | arg0 | arg1 | arg2 | arg3
  | fbuf (word : Nat)
  | val (slot word : Nat)
  | msg (index word : Nat)
  | sig (index word : Nat)
  | chan (index word : Nat)
  | reserved
  deriving DecidableEq, Repr

/-- The state of the block (10_state R20), then the model's own fields (INVENTORY.md, log 9). -/
structure State where
  /-- `CTRL` (R24). -/
  ie : Bool
  absentRaw0 : Bool
  rne : Bool
  /-- `STATUS` (R25), less `BUSY` and `LOCKED`, which `pending` and `phase` hold. -/
  done : Bool
  oor : Bool
  csumValid : Bool
  wdrop : Bool
  err : ErrCode
  /-- `CMD` (R27). -/
  cmd : Word
  /-- `ERR_INFO` (R28). -/
  errInfo : Word
  /-- `RESULT0` and `RESULT1` (R29). -/
  result0 : Word
  result1 : Word
  /-- `FLEN[7:0]` (R30). -/
  flen : Byte
  /-- `ARG0` to `ARG3` (R31). -/
  arg0 : Word
  arg1 : Word
  arg2 : Word
  arg3 : Word
  /-- `FBUF` (R32). -/
  fbuf : Memory
  /-- `VAL`, `MSG`, `SIG` and `CH` (R33, R37, R42, R44): the entries that differ from their reset value, by rising index. -/
  vals : List (Nat × Slot)
  msgs : List (Nat × MsgDesc)
  sigs : List (Nat × SigDesc)
  chans : List (Nat × Channel)
  /-- The phase (R48, R260). -/
  phase : Phase
  /-- The pending-command latch (R48): `BUSY = 1` iff it is full. -/
  pending : Option Word
  /-- MODEL'S OWN: the steps still to pass before the latched command completes (R290). -/
  wait : Nat
  /-- MODEL'S OWN: the delays of the coming commands, as far as they are supplied (U2). -/
  latencies : List Nat
  /-- MODEL'S OWN: the outside world's coming events, in order (R76). -/
  host : List HostEvent
  /-- MODEL'S OWN: the response to the last access served (R5). -/
  reply : BusReply
  /-- MODEL'S OWN: the level of the reset input (R280). -/
  resetLine : Bool
  /-- MODEL'S OWN: how many free values have been drawn (U1, U2). -/
  draws : Nat
  deriving DecidableEq, Repr

/-- The state right after reset (10_state R50, 70_reset R281). -/
def State.reset : State where
  ie := false
  absentRaw0 := false
  rne := false
  done := false
  oor := false
  csumValid := false
  wdrop := false
  err := .none
  cmd := 0
  errInfo := 0
  result0 := 0
  result1 := 0
  flen := 0
  arg0 := 0
  arg1 := 0
  arg2 := 0
  arg3 := 0
  fbuf := []
  vals := []
  msgs := []
  sigs := []
  chans := []
  phase := .config
  pending := none
  wait := 0
  latencies := []
  host := []
  reply := .none
  resetLine := false
  draws := 0

/-- The three outcomes of a step of this machine. -/
abbrev Result := Host.Outcome State Fault Refusal

end Sys2Proof.Machine
end

