-- ==== Sys2Proof/Machine/Flags.lean ====
section
/-! DEFINITION. The packed registers and flag words: `STATUS`, `CTRL`, `ERR_INFO`, `VFLAGS`, `CH_FLAGS`, the limiter's
`RESULT1`, and the interrupt line (10_state R24 to R49, 42_limiter R210, 60_exceptions R251, R257). -/

namespace Sys2Proof.Machine

/-- The number of an error code (60_exceptions R251). -/
def ErrCode.toByte : ErrCode → Byte
  | .none => 0
  | .illegalCmd => 1
  | .notLocked => 2
  | .alreadyLocked => 3
  | .badIndex => 4
  | .badDescriptor => 5
  | .lengthMismatch => 6
  | .noChecksum => 7
  | .noCounter => 8
  | .unknownAddress => 9
  | .badValue => 10

/-- `ERR_INFO`: `KIND << 24 OR CHECK << 16 OR SLOT << 8 OR INDEX` (60_exceptions R252). -/
def ErrInfo.pack (e : ErrInfo) : Word :=
  (e.kind.setWidth 32 <<< 24) ||| (e.check.setWidth 32 <<< 16) ||| (e.slot.setWidth 32 <<< 8) ||| e.index.setWidth 32

/-- The info of an error of the command itself: `INDEX` is the command's `IDX`, `SLOT` is 0xFF, the rest 0 (R254). -/
def ErrInfo.ofCommand (idx : Nat) : ErrInfo := ⟨BitVec.ofNat 8 idx, 0xFF, 0, 0⟩

/-- A flag as a word with that one bit, at position `i`. -/
def flagBit (b : Bool) (i : Nat) : Word := (BitVec.ofBool b).setWidth 32 <<< i

/-- `STATUS.BUSY`: 1 iff the pending-command latch is full (10_state R48). -/
def State.busy (s : State) : Bool := s.pending.isSome

/-- `STATUS.LOCKED`: 1 in OPERATE (10_state R25, 60_exceptions R260). -/
def State.locked (s : State) : Bool := decide (s.phase = .operate)

/-- `STATUS` as the host reads it (10_state R25). -/
def State.statusWord (s : State) : Word :=
  flagBit s.busy 0 ||| flagBit s.done 1 ||| flagBit s.oor 2 ||| flagBit s.csumValid 3 |||
    flagBit s.locked 4 ||| flagBit s.wdrop 5 ||| (s.err.toByte.setWidth 32 <<< 8)

/-- `CTRL` as the host reads it (10_state R24). -/
def State.ctrlWord (s : State) : Word :=
  flagBit s.ie 1 ||| flagBit s.absentRaw0 2 ||| flagBit s.rne 3

/-- The interrupt line: `IRQ = CTRL.IE AND STATUS.DONE` (60_exceptions R257). -/
def State.irq (s : State) : Bool := s.ie && s.done

/-- `VAL[j].VFLAGS` as the host reads it (10_state R36). -/
def Slot.vflagsWord (v : Slot) : Word :=
  flagBit v.present 0 ||| flagBit v.oor 1 ||| flagBit v.rawIn 2

/-- `CH_FLAGS` as the host reads it (10_state R46). -/
def Channel.flagsWord (c : Channel) : Word :=
  flagBit c.temp 0 ||| flagBit c.perm 1 ||| flagBit c.ovr 2

/-- `CH_CFG` as the host reads it (10_state R45). -/
def Channel.cfgWord (c : Channel) : Word := flagBit c.en 0 ||| flagBit c.fbSel 1

/-- The states of the document's limiter state machine. -/
inductive LimiterPhase where
  | nominal | faultedTemporary | faultedPermanent
  deriving DecidableEq, Repr

/-- The limiter state read off the flags (10_state R47). -/
def Channel.limiterPhase (c : Channel) : LimiterPhase :=
  if c.perm then .faultedPermanent else if c.temp then .faultedTemporary else .nominal

/-- `RESULT1` of `LSTEP`: TEMP, PERM, OVERRIDE, DCLAMP and RCLAMP in bits 0 to 4 (42_limiter R210). -/
def LimiterTick.resultFlags (t : LimiterTick) : Word :=
  flagBit t.temp 0 ||| flagBit t.perm 1 ||| flagBit t.ovr 2 ||| flagBit t.dclamp 3 ||| flagBit t.rclamp 4

/-- `CS_ALG` as two bits (10_state R37). -/
def CsAlg.toBits : CsAlg → BitVec 2
  | .none => 0
  | .crc8 => 1
  | .passthrough => 2
  | .counterOnly => 3

/-- The strategy that two bits select (10_state R37). -/
def CsAlg.ofBits (b : BitVec 2) : CsAlg :=
  if b = 0 then .none else if b = 1 then .crc8 else if b = 2 then .passthrough else .counterOnly

end Sys2Proof.Machine
end

