-- ==== Sys2Proof/Machine/Ops.lean ====
section
/-! DEFINITION. The named operations over the state: tables and the frame buffer as a memory, frame bits and fields
(20_memory R61 to R64), the words of a wide register (R66), the accessors of the register files, and how a command ends:
`State.complete` (60_exceptions R253) and `State.raise` (R252). -/

namespace Sys2Proof.Machine

/-! ### Tables in canonical form -/

/-- The entry of index `k`: the first one listed, or the reset entry `d` when none is. -/
def tableRead {α : Type} (d : α) : List (Nat × α) → Nat → α
  | [], _ => d
  | (j, x) :: t, k => if j = k then x else tableRead d t k

/-- Put an entry that differs from the reset entry at its place in the order. -/
def tableInsert {α : Type} : List (Nat × α) → Nat → α → List (Nat × α)
  | [], k, x => [(k, x)]
  | (j, y) :: t, k, x =>
    if k < j then (k, x) :: (j, y) :: t
    else if j = k then (k, x) :: t
    else (j, y) :: tableInsert t k x

/-- Set the entry of index `k`. Setting it to the reset entry `d` takes it off the list, so that equal tables are equal
lists. -/
def tableWrite {α : Type} [DecidableEq α] (d : α) (t : List (Nat × α)) (k : Nat) (x : α) : List (Nat × α) :=
  if x = d then t.filter (fun e => decide (e.1 ≠ k)) else tableInsert t k x

/-- Set the entry of index `k` of a table with `n` entries; beyond the table nothing is written (log 11). -/
def tableSet {α : Type} [DecidableEq α] (d : α) (n : Nat) (t : List (Nat × α)) (k : Nat) (x : α) : List (Nat × α) :=
  if k < n then tableWrite d t k x else t

/-- Canonical form from index `lo` on: rising indices below `n`, no entry equal to the reset entry. -/
def tableWfFrom {α : Type} [DecidableEq α] (d : α) (n : Nat) : Nat → List (Nat × α) → Bool
  | _, [] => true
  | lo, (j, x) :: t => decide (lo ≤ j) && decide (j < n) && decide (x ≠ d) && tableWfFrom d n (j + 1) t

/-- Canonical form of a table with `n` entries. -/
def tableWf {α : Type} [DecidableEq α] (d : α) (n : Nat) (t : List (Nat × α)) : Bool := tableWfFrom d n 0 t

/-! ### The frame buffer -/

/-- The byte an unlisted address of the frame buffer reads as: 0, its reset value (10_state R50). -/
def Memory.blank : Byte := 0

/-- The byte `FBUF[a]`. -/
def Memory.read (m : Memory) (a : Nat) : Byte := tableRead Memory.blank m a

/-- `FBUF[a] <- x`, for an address of the buffer (10_state R32). -/
def Memory.write (m : Memory) (a : Nat) (x : Byte) : Memory := tableSet Memory.blank Config.maxLen m a x

/-- The canonical form of the frame buffer: addresses below 64, strictly rising, none listed with 0. -/
def Memory.wf (m : Memory) : Bool := tableWf Memory.blank Config.maxLen m

/-- `FBUF[b] <- 0` for `b` in `0 .. n-1` (40_codec R128, `CLR = 1`). -/
def Memory.clear (m : Memory) (n : Nat) : Memory := (List.range n).foldl (fun m b => Memory.write m b 0) m

/-- A bit vector with bit `i` set to `x`. -/
def setBit {n : Nat} (v : BitVec n) (i : Nat) (x : Bool) : BitVec n :=
  if x then v ||| (1#n <<< i) else v &&& ~~~(1#n <<< i)

/-- `FrameBitGet(b) = FBUF[b div 8][b mod 8]` (20_memory R61). -/
def frameBitGet (m : Memory) (b : Nat) : Bool := (Memory.read m (b / 8)).getLsbD (b % 8)

/-- `FrameBitSet(b, x)`: `FBUF[b div 8][b mod 8] <- x` (20_memory R61). -/
def frameBitSet (m : Memory) (b : Nat) (x : Bool) : Memory :=
  Memory.write m (b / 8) (setBit (Memory.read m (b / 8)) (b % 8) x)

/-- The in-byte flip `flip(b) = 8*(b div 8) + 7 - (b mod 8)` (20_memory R63). -/
def inByteFlip (b : Nat) : Nat := 8 * (b / 8) + 7 - b % 8

/-- The frame bit of raw bit `k` of the field `(s, L, be)` (20_memory R62 to R64). -/
def bitpos (s len : Nat) (be : Bool) (k : Nat) : Nat :=
  if be then inByteFlip (inByteFlip s + len - 1 - k) else s + k

/-- The field `(s, L, be)` lies within a message of `bytes` bytes (20_memory R62, R63). -/
def fieldWithin (s len : Nat) (be : Bool) (bytes : Nat) : Bool :=
  if be then decide (inByteFlip s + len ≤ 8 * bytes) else decide (s + len ≤ 8 * bytes)

/-- The frame bits of a field, by rising raw bit number. -/
def fieldBits (s len : Nat) (be : Bool) : List Nat := (List.range len).map (bitpos s len be)

/-- `FieldGet(s, L, be)`: the sum of `FrameBitGet(bitpos k) * 2^k` (20_memory R64). -/
def fieldGet (m : Memory) (s len : Nat) (be : Bool) : Nat :=
  ((List.range len).map fun k => (frameBitGet m (bitpos s len be k)).toNat * 2 ^ k).sum

/-- `FieldSet(s, L, be, u)`: raw bit `k` of `u` to its frame bit, for every `k` below `L` (20_memory R64). -/
def fieldSet (m : Memory) (s len : Nat) (be : Bool) (u : Nat) : Memory :=
  (List.range len).foldl (fun m k => frameBitSet m (bitpos s len be k) (u.testBit k)) m

/-- Word `w` of the buffer as the window shows it: byte `4*w + t` in bits `[8*t+7 : 8*t]` (20_memory R65). -/
def fbufWord (m : Memory) (w : Nat) : Word :=
  (Memory.read m (4 * w)).setWidth 32 ||| ((Memory.read m (4 * w + 1)).setWidth 32 <<< 8) |||
    ((Memory.read m (4 * w + 2)).setWidth 32 <<< 16) ||| ((Memory.read m (4 * w + 3)).setWidth 32 <<< 24)

/-- A host write of word `w` of the buffer: all four bytes (20_memory R65). -/
def fbufSetWord (m : Memory) (w : Nat) (v : Word) : Memory :=
  let m := Memory.write m (4 * w) (v.extractLsb' 0 8)
  let m := Memory.write m (4 * w + 1) (v.extractLsb' 8 8)
  let m := Memory.write m (4 * w + 2) (v.extractLsb' 16 8)
  Memory.write m (4 * w + 3) (v.extractLsb' 24 8)

/-! ### The words of a wide register -/

/-- Word `k` of a register wider than 32 bits, lowest word first (20_memory R66). -/
def getWord {n : Nat} (x : BitVec n) (k : Nat) : Word := x.extractLsb' (32 * k) 32

/-- Word `k` replaced, the other words kept (20_memory R66). -/
def putWord {n : Nat} (x : BitVec n) (k : Nat) (v : Word) : BitVec n :=
  (x &&& ~~~((BitVec.allOnes 32).setWidth n <<< (32 * k))) ||| (v.setWidth n <<< (32 * k))

/-! ### The register files -/

/-- `VAL[j]` (10_state R33). -/
def State.slot (s : State) (j : Nat) : Slot := tableRead Slot.reset s.vals j

/-- `MSG[i]` (10_state R37). -/
def State.msg (s : State) (i : Nat) : MsgDesc := tableRead MsgDesc.reset s.msgs i

/-- `SIG[k]` (10_state R42). -/
def State.sig (s : State) (k : Nat) : SigDesc := tableRead SigDesc.reset s.sigs k

/-- `CH[c]` (10_state R44). -/
def State.chan (s : State) (c : Nat) : Channel := tableRead Channel.reset s.chans c

/-- The value file with `VAL[j] <- v`. -/
def slotsSet (t : List (Nat × Slot)) (j : Nat) (v : Slot) : List (Nat × Slot) := tableSet Slot.reset Config.maxSigs t j v

/-- `VAL[j] <- v`. -/
def State.setSlot (s : State) (j : Nat) (v : Slot) : State := { s with vals := slotsSet s.vals j v }

/-- `MSG[i] <- m`. -/
def State.setMsg (s : State) (i : Nat) (m : MsgDesc) : State :=
  { s with msgs := tableSet MsgDesc.reset Config.nmsg s.msgs i m }

/-- `SIG[k] <- d`. -/
def State.setSig (s : State) (k : Nat) (d : SigDesc) : State :=
  { s with sigs := tableSet SigDesc.reset Config.nsig s.sigs k d }

/-- `CH[c] <- x`. -/
def State.setChan (s : State) (c : Nat) (x : Channel) : State :=
  { s with chans := tableSet Channel.reset Config.nchan s.chans c x }

/-! ### How a command ends -/

/-- The completion fields of a command without error (60_exceptions R253): `ERR` and `ERR_INFO` are 0, `DONE` is 1 and the
latch empties, so `BUSY` is 0. -/
def State.complete (s : State) : State :=
  { s with err := .none, errInfo := 0, done := true, pending := none }

/-- `raise Err(code, info)` (60_exceptions R252): the command ends at once, and nothing else is written. -/
def State.raise (s : State) (code : ErrCode) (info : ErrInfo) : State :=
  { s with err := code, errInfo := info.pack, done := true, pending := none }

/-- A command word that matches no row: `ILLEGAL_CMD` with `INDEX = CMD[15:8]` (30_encoding R97, 60_exceptions R254). -/
def illegalCommand (w : Word) (s : State) : Result :=
  .next (s.raise .illegalCmd ⟨w.extractLsb' 8 8, 0xFF, 0, 0⟩)

/-- The delay of the command being accepted: the next one supplied, or a free value (70_reset R290, U2; log 2). -/
def State.nextLatency (s : State) : Nat :=
  match s.latencies with
  | n :: _ => n
  | [] => Config.latency s.draws

/-- The host's `CMD` write is accepted: the word is stored and latched, `BUSY` becomes 1 and `DONE` becomes 0 (10_state
R26, R27). -/
def State.accept (s : State) (w : Word) : State :=
  { s with
    cmd := w, pending := some w, done := false
    wait := s.nextLatency, latencies := s.latencies.tail
    draws := if s.latencies.isEmpty then s.draws + 1 else s.draws }

end Sys2Proof.Machine
end

