-- ==== Sys2Proof/Machine/Operands.lean ====
section
/-! DEFINITION. What a command reads: the common checks of 60_exceptions R254, the message and channel operands
(30_encoding R92), the numbers of a descriptor, and the exact arithmetic of 00_scope R8, R9 and 40_codec R120 to R127. -/

namespace Sys2Proof.Machine

/-! ### Arithmetic over the integers and rationals (00_scope R9) -/

/-- `clamp(x, lo, hi) = min(max(x, lo), hi)`. -/
def clamp (x lo hi : Int) : Int := min (max x lo) hi

/-- The rational `n / d` with the sign moved to the numerator. -/
def signToNum (n d : Int) : Int × Int := if d < 0 then (-n, -d) else (n, d)

/-- `round_HA(n / d)`, half away from zero: `sign(q) * floor(abs(q) + 1/2)`, where `floor(abs(n)/d + 1/2)` is the integer
quotient of `2*abs(n) + d` by `2*d`. -/
def roundHA (n d : Int) : Int :=
  let q := signToNum n d
  q.1.sign * ((2 * (q.1.natAbs : Int) + q.2) / (2 * q.2))

/-- `round_HE(n / d)`, to nearest with ties to even: with `f = floor(q)` and `r = q - f`, the sign of `2*r - 1` decides,
and a tie goes to the even one of `f` and `f + 1`. -/
def roundHE (n d : Int) : Int :=
  let q := signToNum n d
  let f := q.1 / q.2
  let twice := 2 * (q.1 - f * q.2)
  if twice < q.2 then f else if q.2 < twice then f + 1 else if f % 2 = 0 then f else f + 1

/-- `round`: `round_HE` when `CTRL.RNE = 1`, `round_HA` when it is 0. -/
def roundQuot (rne : Bool) (n d : Int) : Int := if rne then roundHE n d else roundHA n d

/-! ### Signals (40_codec R120 to R127) -/

/-- `L`, the bit length. -/
def SigDesc.bits (d : SigDesc) : Nat := d.length.toNat

/-- `lo`, the least raw value (R120). -/
def SigDesc.lo (d : SigDesc) : Int := if d.signed then -(2 ^ (d.bits - 1)) else 0

/-- `hi`, the greatest raw value (R120). -/
def SigDesc.hi (d : SigDesc) : Int := if d.signed then 2 ^ (d.bits - 1) - 1 else 2 ^ d.bits - 1

/-- The signal's field lies within a message of `bytes` bytes (20_memory R62, R63). -/
def SigDesc.within (d : SigDesc) (bytes : Nat) : Bool := fieldWithin d.start.toNat d.bits d.be bytes

/-- The signal's frame bits (R121). -/
def SigDesc.frameBits (d : SigDesc) : List Nat := fieldBits d.start.toNat d.bits d.be

/-- The signal's field value, unsigned (R121). -/
def SigDesc.get (d : SigDesc) (m : Memory) : Nat := fieldGet m d.start.toNat d.bits d.be

/-- The frame with the signal's field set to `u`. -/
def SigDesc.put (d : SigDesc) (m : Memory) (u : Nat) : Memory := fieldSet m d.start.toNat d.bits d.be u

/-- `RawOf`: the raw value in the frame, with sign extension if signed (R121). -/
def SigDesc.rawOf (d : SigDesc) (m : Memory) : Int :=
  let u := d.get m
  if d.signed && u.testBit (d.bits - 1) then (u : Int) - 2 ^ d.bits else u

/-- `PhysNum = r*sn*od + on*sd` (R122). -/
def SigDesc.physNum (d : SigDesc) (r : Int) : Int :=
  r * d.scaleNum.toInt * (d.offDen.toNat : Int) + d.offNum.toInt * (d.scaleDen.toNat : Int)

/-- `PhysDen = sd*od` (R122). -/
def SigDesc.physDen (d : SigDesc) : Int := (d.scaleDen.toNat : Int) * (d.offDen.toNat : Int)

/-- The numerator of `Quot`: `(VN*od - on*VD)*sd` (R123). -/
def SigDesc.quotNum (d : SigDesc) (vn vd : Int) : Int :=
  (vn * (d.offDen.toNat : Int) - d.offNum.toInt * vd) * (d.scaleDen.toNat : Int)

/-- The denominator of `Quot`: `VD*od*sn` (R123). -/
def SigDesc.quotDen (d : SigDesc) (vd : Int) : Int := vd * (d.offDen.toNat : Int) * d.scaleNum.toInt

/-- The raw value of a physical value before clamping: `round(Quot)` (R124). -/
def SigDesc.rawOfPhys (d : SigDesc) (rne : Bool) (vn vd : Int) : Int :=
  roundQuot rne (d.quotNum vn vd) (d.quotDen vd)

/-- `r0`, the raw value before clamping: raw mode (R126), a given value (R124), or a signal not given (R127). -/
def SigDesc.rawBeforeClamp (d : SigDesc) (rne absentRaw0 : Bool) (v : Slot) : Int :=
  if v.present then
    if v.rawIn then (if d.signed then v.raw.toInt else (v.raw.toNat : Int))
    else d.rawOfPhys rne v.num.toInt (v.den.toNat : Int)
  else if absentRaw0 then 0 else d.rawOfPhys rne 0 1

/-- `r = clamp(r0, lo, hi)` (R125). -/
def SigDesc.clampRaw (d : SigDesc) (r0 : Int) : Int := clamp r0 d.lo d.hi

/-! ### Messages -/

/-- Descriptor of the message's signal in slot `j` (10_state R33, R38). -/
def State.signalOf (s : State) (m : MsgDesc) (j : Nat) : SigDesc := s.sig (m.sigFirst.toNat + j)

/-- The counter field of a message lies within it (41_checksum_counter R166). -/
def MsgDesc.counterWithin (m : MsgDesc) : Bool := fieldWithin m.cntStart.toNat m.cntW.toNat m.cntBe m.len.toNat

/-- The counter field of the frame (R166). -/
def MsgDesc.counterGet (m : MsgDesc) (f : Memory) : Nat := fieldGet f m.cntStart.toNat m.cntW.toNat m.cntBe

/-- The frame with the counter field set to `u` (R166). -/
def MsgDesc.counterPut (m : MsgDesc) (f : Memory) (u : Nat) : Memory := fieldSet f m.cntStart.toNat m.cntW.toNat m.cntBe u

/-- The modulus of the rolling counter, `2^CNT_W` (R166). -/
def MsgDesc.counterModulus (m : MsgDesc) : Nat := 2 ^ m.cntW.toNat

/-! ### The common checks (60_exceptions R254) -/

/-- The message operand: an index below NMSG of an enabled descriptor (30_encoding R92). -/
def messageOperand (idx : Nat) (s : State) : Option MsgDesc :=
  if idx < Config.nmsg ∧ (s.msg idx).en = true then some (s.msg idx) else none

/-- The channel operand: an index below NCHAN of an enabled channel (30_encoding R92). -/
def channelOperand (idx : Nat) (s : State) : Option Channel :=
  if idx < Config.nchan ∧ (s.chan idx).en = true then some (s.chan idx) else none

/-- End the command with an error of the command itself. -/
def failCommand (code : ErrCode) (idx : Nat) (s : State) : Result := .next (s.raise code (.ofCommand idx))

/-- The phase check of a command that needs OPERATE (R254, check 2). -/
def needOperate (idx : Nat) (s : State) (body : Result) : Result :=
  match s.phase with
  | .config => failCommand .notLocked idx s
  | .operate => body

/-- The phase check, then the index check of a message command (R254, checks 2 and 3), then its own rule. -/
def withMessage (idx : Nat) (s : State) (body : MsgDesc → Result) : Result :=
  needOperate idx s <|
    match messageOperand idx s with
    | none => failCommand .badIndex idx s
    | some m => body m

/-- The phase check, then the index check of a channel command (R254, checks 2 and 3), then its own rule. -/
def withChannel (idx : Nat) (s : State) (body : Channel → Result) : Result :=
  needOperate idx s <|
    match channelOperand idx s with
    | none => failCommand .badIndex idx s
    | some c => body c

end Sys2Proof.Machine
end

