-- ==== Sys2Proof/Machine/Checksum.lean ====
section
/-! DEFINITION. The checksum and counter commands: CSCOMP, CSINS, CSVAL, CNTRD, CNTWR, CNTNXT (41_checksum_counter R160 to
R169). -/

namespace Sys2Proof.Machine

/-- One of the eight iterations of the CRC byte step: polynomial 0x1D, high bit first (R160). -/
def crcShift (c : Byte) : Byte := if c.msb then (c <<< 1) ^^^ 0x1D else c <<< 1

/-- `CrcByte(c, x)` (R160). -/
def crcByte (c x : Byte) : Byte := (List.range 8).foldl (fun c _ => crcShift c) (c ^^^ x)

/-- `Crc8(bytes, fx)`: initial value 0xFF, final XOR `fx` (R160). -/
def crc8 (bytes : List Byte) (fx : Byte) : Byte := bytes.foldl crcByte 0xFF ^^^ fx

/-- The indices of the covered bytes: `CS_START .. CS_END - CS_EXCL - 1` (R161). -/
def MsgDesc.coveredIndices (m : MsgDesc) : List Nat :=
  List.range' m.csStart.toNat (m.csEnd.toNat - m.csExcl.toNat - m.csStart.toNat)

/-- `Covered(M)`: the covered bytes of the frame, in ascending index order (R161). -/
def MsgDesc.covered (m : MsgDesc) (f : Memory) : List Byte := m.coveredIndices.map f.read

/-- The checksum byte of the frame, `FBUF[CS_POS]` (R162). -/
def MsgDesc.checksumByte (m : MsgDesc) (f : Memory) : Byte := f.read m.csPos.toNat

/-- What compute gives under each strategy; `none` where there is no checksum byte (R162). -/
def MsgDesc.computed (m : MsgDesc) (f : Memory) : Option Byte :=
  match m.csAlg with
  | .none => none
  | .crc8 => some (crc8 (m.covered f) m.csFxor)
  | .passthrough => some (m.checksumByte f)
  | .counterOnly => none

/-- `CSCOMP`: compute the checksum (R163). -/
def execCscomp (idx : Nat) (s : State) : Result :=
  withMessage idx s fun m =>
    match m.computed s.fbuf with
    | none => failCommand .noChecksum idx s
    | some c => .next ({ s with result0 := c.setWidth 32 } : State).complete

/-- `CSINS`: compute the checksum and write it into the frame (R164). -/
def execCsins (idx : Nat) (s : State) : Result :=
  withMessage idx s fun m =>
    match m.computed s.fbuf with
    | none => failCommand .noChecksum idx s
    | some c =>
      .next ({ s with fbuf := s.fbuf.write m.csPos.toNat c, result0 := c.setWidth 32 } : State).complete

/-- What validate finds: the computed byte, the received byte and the verdict; `none` without a ChecksumSpec (R162, R165). -/
def MsgDesc.verdict (m : MsgDesc) (f : Memory) : Option (Byte × Byte × Bool) :=
  match m.csAlg with
  | .none => none
  | .crc8 =>
    let c := crc8 (m.covered f) m.csFxor
    let rx := m.checksumByte f
    some (c, rx, decide (c = rx))
  | .passthrough => some (m.checksumByte f, m.checksumByte f, true)
  | .counterOnly => some (0, 0, true)

/-- `CSVAL`: validate the checksum of a received frame; `NO_CHECKSUM` is checked before the length (R165, 60_exceptions
R254). -/
def execCsval (idx : Nat) (s : State) : Result :=
  withMessage idx s fun m =>
    match m.verdict s.fbuf with
    | none => failCommand .noChecksum idx s
    | some v =>
      if s.flen = m.len then
        .next ({ s with result0 := v.1.setWidth 32, result1 := v.2.1.setWidth 32, csumValid := v.2.2 } : State).complete
      else failCommand .lengthMismatch idx s

/-- The check that the message has a CounterSpec, before the rule of a counter command (R167 to R169). -/
def withCounter (idx : Nat) (s : State) (body : MsgDesc → State) : Result :=
  withMessage idx s fun m =>
    if m.cntEn then .next (body m).complete else failCommand .noCounter idx s

/-- `CNTRD`: read the rolling counter from the frame (R167). -/
def execCntrd (idx : Nat) (s : State) : Result :=
  withCounter idx s fun m => { s with result0 := BitVec.ofNat 32 (m.counterGet s.fbuf) }

/-- `CNTWR`: write the rolling counter into the frame, reduced modulo `2^CNT_W` (R168). -/
def execCntwr (idx : Nat) (s : State) : Result :=
  withCounter idx s fun m => { s with fbuf := m.counterPut s.fbuf (s.arg0.toNat % m.counterModulus) }

/-- `CNTNXT`: compute the next counter value (R169). -/
def execCntnxt (idx : Nat) (s : State) : Result :=
  withCounter idx s fun m => { s with result0 := BitVec.ofNat 32 ((s.arg0.toNat + 1) % m.counterModulus) }

end Sys2Proof.Machine
end

