-- ==== Sys2Proof/Machine/Codec.lean ====
section
/-! DEFINITION. The frame codec commands: ENCODE, DECODE, VCLR (40_codec R128 to R130). -/

namespace Sys2Proof.Machine

/-- A given slot that is not in raw mode and holds no value, `DEN = 0` (40_codec R128, `BAD_VALUE`). -/
def Slot.badValue (v : Slot) : Bool := v.present && !v.rawIn && decide (v.den = 0)

/-- The lowest slot of the message that `ENCODE` refuses. -/
def badValueSlot (m : MsgDesc) (s : State) : Option Nat :=
  (List.range m.sigCount.toNat).find? fun j => (s.slot j).badValue

/-- The raw value before clamping of slot `j` of a message (40_codec R124, R126, R127). -/
def slotRawBefore (m : MsgDesc) (s : State) (j : Nat) : Int :=
  (s.signalOf m j).rawBeforeClamp s.rne s.absentRaw0 (s.slot j)

/-- The raw value written for slot `j`, within the signal's range (40_codec R125). -/
def slotRaw (m : MsgDesc) (s : State) (j : Nat) : Int := (s.signalOf m j).clampRaw (slotRawBefore m s j)

/-- The slot's value was clamped (40_codec R125). -/
def slotClamped (m : MsgDesc) (s : State) (j : Nat) : Bool := decide (slotRaw m s j ≠ slotRawBefore m s j)

/-- The frame after the loop of `ENCODE` over the slots `js`: each writes `r mod 2^L` to its field. A turn of the loop
reads only its own slot, which no earlier turn writes, so all slots are read from the state at acceptance. -/
def packFrame (m : MsgDesc) (s : State) (js : List Nat) (f : Memory) : Memory :=
  js.foldl (fun f j => let d := s.signalOf m j; d.put f (slotRaw m s j % 2 ^ d.bits).toNat) f

/-- What `ENCODE` leaves in slot `j`: `RAW` and `OOR` are written, the rest kept. -/
def encodedSlot (m : MsgDesc) (s : State) (j : Nat) : Slot :=
  { s.slot j with raw := BitVec.ofInt 64 (slotRaw m s j), oor := slotClamped m s j }

/-- The frame that `ENCODE` starts from: `ENCODE.C` clears the message's bytes (30_encoding R93). -/
def startFrame (m : MsgDesc) (clr : Bool) (f : Memory) : Memory := if clr then f.clear m.len.toNat else f

/-- The effects of `ENCODE` on a message whose slots are all good. -/
def encodeMessage (m : MsgDesc) (clr : Bool) (s : State) : State :=
  let js := List.range m.sigCount.toNat
  { s with
    fbuf := packFrame m s js (startFrame m clr s.fbuf)
    vals := js.foldl (fun t j => slotsSet t j (encodedSlot m s j)) s.vals
    oor := js.any (slotClamped m s)
    flen := m.len }

/-- `ENCODE` and `ENCODE.C`: pack the value file into the frame (40_codec R128). -/
def execEncode (idx : Nat) (clr : Bool) (s : State) : Result :=
  withMessage idx s fun m =>
    match badValueSlot m s with
    | some j => .next (s.raise .badValue ⟨BitVec.ofNat 8 idx, BitVec.ofNat 8 j, 0, 0⟩)
    | none => .next (encodeMessage m clr s).complete

/-- The slot that `DECODE` makes of a raw value (40_codec R129). -/
def decodedSlot (d : SigDesc) (r : Int) : Slot where
  num := BitVec.ofInt 128 (d.physNum r)
  den := BitVec.ofInt 64 d.physDen
  raw := BitVec.ofInt 64 r
  present := true
  oor := false
  rawIn := false

/-- What `DECODE` leaves in slot `j`. -/
def unpackedSlot (m : MsgDesc) (s : State) (j : Nat) : Slot :=
  let d := s.signalOf m j
  decodedSlot d (d.rawOf s.fbuf)

/-- The effects of `DECODE`: slots `0 .. SIG_COUNT-1` are written from the frame, which stays. -/
def decodeMessage (m : MsgDesc) (s : State) : State :=
  { s with vals := (List.range m.sigCount.toNat).foldl (fun t j => slotsSet t j (unpackedSlot m s j)) s.vals }

/-- `DECODE`: unpack the frame into the value file (40_codec R129). -/
def execDecode (idx : Nat) (s : State) : Result :=
  withMessage idx s fun m =>
    if s.flen = m.len then .next (decodeMessage m s).complete
    else failCommand .lengthMismatch idx s

/-- `VCLR`: the value file to its reset value (40_codec R130). -/
def execVclr (s : State) : Result := .next ({ s with vals := [] } : State).complete

end Sys2Proof.Machine
end

