-- ==== Sys2Proof/Machine/Control.lean ====
section
/-! DEFINITION. The control commands: NOP, LOCK with its descriptor checks, LOOKUP (43_control R230 to R233). -/

namespace Sys2Proof.Machine

/-- `NOP`: only the completion fields are written (R230). -/
def execNop (s : State) : Result := .next s.complete

/-! ### The descriptor checks of LOCK (R232) -/

/-- The lowest slot below `n` at which a check fails. -/
def lowestFailing (n : Nat) (fails : Nat → Bool) : Option Byte :=
  ((List.range n).find? fails).map (BitVec.ofNat 8)

/-- The outcome of a check that concerns no slot: 0xFF when it fails. -/
def failsWithoutSlot (b : Bool) : Option Byte := if b then some 0xFF else none

/-- Two fields share a frame bit. -/
def shareBit (a b : SigDesc) : Bool := a.frameBits.any fun x => b.frameBits.contains x

/-- Another enabled message below `i` has the bus and address of `MSG[i]` (check 0x0E). -/
def duplicateAddress (s : State) (i : Nat) : Bool :=
  (List.range i).any fun i' =>
    (s.msg i').en && decide ((s.msg i').bus = (s.msg i).bus) && decide ((s.msg i').addr = (s.msg i).addr)

/-- Check `code` of the table of R232 on message `i`: the `SLOT` it reports when it fails. -/
def checkMessage (s : State) (i code : Nat) : Option Byte :=
  let m := s.msg i
  let len := m.len.toNat
  let count := m.sigCount.toNat
  let sigma := s.signalOf m
  match code with
  | 0x01 => failsWithoutSlot (decide (len = 0) || decide (len > Config.maxLen))
  | 0x02 => failsWithoutSlot (decide (count > Config.maxSigs) || decide (m.sigFirst.toNat + count > Config.nsig))
  | 0x03 => lowestFailing count fun j => decide ((sigma j).bits = 0) || decide ((sigma j).bits > Config.maxSigLen)
  | 0x04 => lowestFailing count fun j => decide ((sigma j).scaleNum = 0)
  | 0x05 => lowestFailing count fun j => decide ((sigma j).scaleDen = 0) || decide ((sigma j).offDen = 0)
  | 0x06 => lowestFailing count fun j => !(sigma j).within len
  | 0x07 => lowestFailing count fun b => (List.range b).any fun a => shareBit (sigma a) (sigma b)
  | 0x08 => failsWithoutSlot ((decide (m.csAlg = .crc8) || decide (m.csAlg = .passthrough)) && decide (m.csPos.toNat ≥ len))
  | 0x09 => failsWithoutSlot (decide (m.csAlg = .crc8) &&
      (decide (m.csEnd.toNat > len) || decide (m.csStart.toNat + m.csExcl.toNat > m.csEnd.toNat)))
  | 0x0A => failsWithoutSlot (decide (m.csAlg = .crc8) && decide (m.csStart.toNat ≤ m.csPos.toNat) &&
      decide (m.csPos.toNat + m.csExcl.toNat < m.csEnd.toNat))
  | 0x0B => failsWithoutSlot (decide (m.csAlg = .counterOnly) && !m.cntEn)
  | 0x0C => failsWithoutSlot (m.cntEn && (decide (m.cntW.toNat = 0) || decide (m.cntW.toNat > Config.maxCntW)))
  | 0x0D => failsWithoutSlot (m.cntEn && !m.counterWithin)
  | 0x0E => failsWithoutSlot (duplicateAddress s i)
  | _ => none

/-- The first check that message `i` fails, in ascending code order (R231). -/
def messageFailure (s : State) (i : Nat) : Option ErrInfo :=
  if (s.msg i).en then
    (List.range' 0x01 14).findSome? fun code =>
      (checkMessage s i code).map fun slot => ⟨BitVec.ofNat 8 i, slot, BitVec.ofNat 8 code, 1⟩
  else none

/-- Words 0 to 6 of a channel, `MAX` to `ERR_THRESH` (10_state R44). -/
def Channel.limits (c : Channel) : List Word :=
  [c.max, c.deltaUp, c.deltaDown, c.drvAllow, c.drvMult, c.drvFactor, c.errThresh]

/-- The lowest negative configuration word of an enabled channel (R231). -/
def channelFailure (s : State) (c : Nat) : Option ErrInfo :=
  if (s.chan c).en then
    ((s.chan c).limits.findIdx? fun w => decide (w.toInt < 0)).map fun w =>
      ⟨BitVec.ofNat 8 c, BitVec.ofNat 8 w, 0x01, 2⟩
  else none

/-- The first failing check of the catalog: every enabled message in ascending order, then the channels (R231). -/
def lockFailure (s : State) : Option ErrInfo :=
  match (List.range Config.nmsg).findSome? (messageFailure s) with
  | some e => some e
  | none => (List.range Config.nchan).findSome? (channelFailure s)

/-- `LOCK`: validate every enabled descriptor and enter OPERATE (R231). -/
def execLock (s : State) : Result :=
  match s.phase with
  | .operate => failCommand .alreadyLocked 0 s
  | .config =>
    match lockFailure s with
    | some e => .next (s.raise .badDescriptor e)
    | none => .next ({ s with phase := .operate } : State).complete

/-! ### LOOKUP -/

/-- Message `i` is enabled and has this bus and address (R233). -/
def MsgDesc.answersTo (m : MsgDesc) (bus : Byte) (addr : Word) : Bool :=
  m.en && decide (m.bus = bus) && decide (m.addr = addr)

/-- `LOOKUP`: find the message of a bus and an address, `ARG0[7:0]` and `ARG1` (R233). -/
def execLookup (s : State) : Result :=
  needOperate 0 s <|
    match (List.range Config.nmsg).find? fun i => (s.msg i).answersTo (s.arg0.extractLsb' 0 8) s.arg1 with
    | some i => .next ({ s with result0 := BitVec.ofNat 32 i } : State).complete
    | none => failCommand .unknownAddress 0 s

end Sys2Proof.Machine
end

