-- ==== Sys2Proof/Machine/Limiter.lean ====
section
/-! DEFINITION. The rate-limiter commands: LSTEP and LRST (42_limiter R200 to R211). -/

namespace Sys2Proof.Machine

/-- The driver's signal opposes the last applied output by more than the allowance (R203). -/
def overrideHolds (last drv allow : Int) : Bool :=
  (decide (last > 0) && decide (drv < -allow)) || (decide (last < 0) && decide (drv > allow))

/-- The magnitude bound on the desired output: `dc = clamp(d, -MAX, MAX)` (R202). -/
def Channel.desired (c : Channel) (d : Int) : Int := clamp d (-c.max.toInt) c.max.toInt

/-- The target of the tick: 0 under override, else the bounded desired output (R205). -/
def Channel.target (c : Channel) (d : Int) (ov : Bool) : Int := if ov then 0 else c.desired d

/-- The step of the tick: `DELTA_DOWN` toward zero and `DELTA_UP` otherwise (R204), widened under override (R205). -/
def Channel.stepWidth (c : Channel) (d : Int) (ov : Bool) : Int :=
  if ov then c.deltaDown.toInt + c.drvMult.toInt * c.drvFactor.toInt
  else if (c.desired d).natAbs < c.last.toInt.natAbs then c.deltaDown.toInt else c.deltaUp.toInt

/-- `applied = last + clamp(tgt - last, -w, w)` (R205). -/
def Channel.applied (c : Channel) (d : Int) (ov : Bool) : Int :=
  let w := c.stepWidth d ov
  c.last.toInt + clamp (c.target d ov - c.last.toInt) (-w) w

/-- The error accumulator after the tick: it counts consecutive ticks of excess deviation, saturating (R206). -/
def Channel.nextAcc (c : Channel) (fb applied : Int) : Int :=
  if ((fb - applied).natAbs : Int) > c.errThresh.toInt then min ((c.errAcc.toNat : Int) + 1) (2 ^ 32 - 1) else 0

/-- The five-step transition of one tick (R201 to R209, R210). -/
def Channel.tick (c : Channel) (d meas drv : Int) (vf : Bool) : LimiterTick :=
  let ov := overrideHolds c.last.toInt drv c.drvAllow.toInt
  let applied := c.applied d ov
  let acc := c.nextAcc (if c.fbSel then drv else meas) applied
  { applied := applied
    acc := acc
    temp := decide (acc > (c.errMax.toNat : Int))
    perm := c.perm || vf
    ovr := ov
    dclamp := decide (c.desired d ≠ d)
    rclamp := decide (applied ≠ c.target d ov) }

/-- The channel with the LimiterState of a tick (R210). -/
def Channel.afterTick (c : Channel) (t : LimiterTick) : Channel :=
  { c with last := BitVec.ofInt 32 t.applied, errAcc := BitVec.ofInt 32 t.acc
           temp := t.temp, perm := t.perm, ovr := t.ovr }

/-- The tick that the argument registers ask of a channel (R201). -/
def State.tickOf (s : State) (c : Channel) : LimiterTick :=
  c.tick s.arg0.toInt s.arg1.toInt s.arg2.toInt (s.arg3.getLsbD 0)

/-- `LSTEP`: one tick of a channel (R210). -/
def execLstep (idx : Nat) (s : State) : Result :=
  withChannel idx s fun c =>
    let t := s.tickOf c
    .next ({ s.setChan idx (c.afterTick t) with
      result0 := BitVec.ofInt 32 t.applied, result1 := t.resultFlags } : State).complete

/-- The channel with its LimiterState cleared (R211). -/
def Channel.cleared (c : Channel) : Channel :=
  { c with last := 0, errAcc := 0, temp := false, perm := false, ovr := false }

/-- `LRST`: external reset of a channel (R211). -/
def execLrst (idx : Nat) (s : State) : Result :=
  withChannel idx s fun c => .next (s.setChan idx c.cleared).complete

end Sys2Proof.Machine
end

