-- ==== Sys2Proof/Machine/Dispatch.lean ====
section
/-! DEFINITION. One arm per command: the meaning of each row of the opcode map (30_encoding R95). -/

namespace Sys2Proof.Machine

def exec (i : Instr) (s : State) : Host.Outcome State Fault Refusal :=
  match i with
  | .nop => Sys2Proof.Machine.execNop s
  | .encode idx clr => Sys2Proof.Machine.execEncode idx clr s
  | .decode idx => Sys2Proof.Machine.execDecode idx s
  | .cscomp idx => Sys2Proof.Machine.execCscomp idx s
  | .csins idx => Sys2Proof.Machine.execCsins idx s
  | .csval idx => Sys2Proof.Machine.execCsval idx s
  | .cntrd idx => Sys2Proof.Machine.execCntrd idx s
  | .cntwr idx => Sys2Proof.Machine.execCntwr idx s
  | .cntnxt idx => Sys2Proof.Machine.execCntnxt idx s
  | .lookup => Sys2Proof.Machine.execLookup s
  | .vclr => Sys2Proof.Machine.execVclr s
  | .lock => Sys2Proof.Machine.execLock s
  | .lstep idx => Sys2Proof.Machine.execLstep idx s
  | .lrst idx => Sys2Proof.Machine.execLrst idx s

end Sys2Proof.Machine
end

