-- ==== Sys2Proof/Machine/Window.lean ====
section
/-! DEFINITION. The register window: its address map (20_memory R74), what a host read returns and what a host write does
(R67 to R73), the reset input (70_reset R280), and one event of the outside world. -/

namespace Sys2Proof.Machine

/-- The offset in the window of a host address, if the address is in it (20_memory R60; log 6). -/
def windowOffset (addr : Nat) : Option (BitVec 16) :=
  if Config.base ≤ addr ∧ addr < Config.base + 0x10000 then some (BitVec.ofNat 16 (addr - Config.base)) else none

/-- The global registers, by word offset (R74). -/
def globalTarget (off : Nat) : Target :=
  match off with
  | 0x000 => .params0
  | 0x004 => .params1
  | 0x008 => .ctrl
  | 0x00C => .status
  | 0x010 => .cmd
  | 0x014 => .errInfo
  | 0x018 => .result0
  | 0x01C => .result1
  | 0x020 => .flen
  | 0x024 => .arg0
  | 0x028 => .arg1
  | 0x02C => .arg2
  | 0x030 => .arg3
  | _ => .reserved

/-- What the word at offset `off`, a multiple of 4, names (R74). -/
def target (off : Nat) : Target :=
  if off < 0x100 then globalTarget off
  else if off < 0x140 then .fbuf ((off - 0x100) / 4)
  else if off < 0x1000 then .reserved
  else if off < 0x2000 then .val ((off - 0x1000) / 64) (off % 64 / 4)
  else if off < 0x2800 then .msg ((off - 0x2000) / 32) (off % 32 / 4)
  else if off < 0x4000 then .reserved
  else if off < 0x8000 then .sig ((off - 0x4000) / 32) (off % 32 / 4)
  else if off < 0x8080 then .chan ((off - 0x8000) / 64) (off % 64 / 4)
  else .reserved

/-! ### The words of the register files -/

/-- Word `w` of a value slot as the host reads it (10_state R33, R36). -/
def Slot.word (v : Slot) (w : Nat) : Word :=
  match w with
  | 0 => getWord v.num 0
  | 1 => getWord v.num 1
  | 2 => getWord v.num 2
  | 3 => getWord v.num 3
  | 4 => getWord v.den 0
  | 5 => getWord v.den 1
  | 6 => getWord v.raw 0
  | 7 => getWord v.raw 1
  | 8 => v.vflagsWord
  | _ => 0

/-- A host write of word `w` of a value slot; `OOR` is read-only (10_state R36, 20_memory R69). -/
def Slot.setWord (v : Slot) (w : Nat) (x : Word) : Slot :=
  match w with
  | 0 => { v with num := putWord v.num 0 x }
  | 1 => { v with num := putWord v.num 1 x }
  | 2 => { v with num := putWord v.num 2 x }
  | 3 => { v with num := putWord v.num 3 x }
  | 4 => { v with den := putWord v.den 0 x }
  | 5 => { v with den := putWord v.den 1 x }
  | 6 => { v with raw := putWord v.raw 0 x }
  | 7 => { v with raw := putWord v.raw 1 x }
  | 8 => { v with present := x.getLsbD 0, rawIn := x.getLsbD 2 }
  | _ => v

/-- A field of a word: its value moved to bit `lo`. -/
def fieldAt {n : Nat} (x : BitVec n) (lo : Nat) : Word := x.setWidth 32 <<< lo

/-- Word `w` of a message descriptor (10_state R37 to R41). -/
def MsgDesc.word (m : MsgDesc) (w : Nat) : Word :=
  match w with
  | 0 => flagBit m.en 0 ||| fieldAt m.csAlg.toBits 1 ||| flagBit m.cntEn 3 ||| fieldAt m.len 8 ||| fieldAt m.sigCount 16
  | 1 => m.addr
  | 2 => fieldAt m.bus 0 ||| fieldAt m.sigFirst 16
  | 3 => fieldAt m.csStart 0 ||| fieldAt m.csEnd 8 ||| fieldAt m.csExcl 16 ||| fieldAt m.csPos 24
  | 4 => fieldAt m.csFxor 0
  | 5 => fieldAt m.cntStart 0 ||| fieldAt m.cntW 16 ||| flagBit m.cntBe 24
  | _ => 0

/-- A host write of word `w` of a message descriptor (10_state R37 to R41). -/
def MsgDesc.setWord (m : MsgDesc) (w : Nat) (x : Word) : MsgDesc :=
  match w with
  | 0 => { m with en := x.getLsbD 0, csAlg := .ofBits (x.extractLsb' 1 2), cntEn := x.getLsbD 3
                  len := x.extractLsb' 8 8, sigCount := x.extractLsb' 16 8 }
  | 1 => { m with addr := x }
  | 2 => { m with bus := x.extractLsb' 0 8, sigFirst := x.extractLsb' 16 16 }
  | 3 => { m with csStart := x.extractLsb' 0 8, csEnd := x.extractLsb' 8 8
                  csExcl := x.extractLsb' 16 8, csPos := x.extractLsb' 24 8 }
  | 4 => { m with csFxor := x.extractLsb' 0 8 }
  | 5 => { m with cntStart := x.extractLsb' 0 16, cntW := x.extractLsb' 16 5, cntBe := x.getLsbD 24 }
  | _ => m

/-- Word `w` of a signal descriptor (10_state R42, R43). -/
def SigDesc.word (d : SigDesc) (w : Nat) : Word :=
  match w with
  | 0 => fieldAt d.start 0 ||| fieldAt d.length 16 ||| flagBit d.signed 24 ||| flagBit d.be 25
  | 1 => d.scaleNum
  | 2 => d.scaleDen
  | 3 => d.offNum
  | 4 => d.offDen
  | _ => 0

/-- A host write of word `w` of a signal descriptor (10_state R42, R43). -/
def SigDesc.setWord (d : SigDesc) (w : Nat) (x : Word) : SigDesc :=
  match w with
  | 0 => { d with start := x.extractLsb' 0 16, length := x.extractLsb' 16 7
                  signed := x.getLsbD 24, be := x.getLsbD 25 }
  | 1 => { d with scaleNum := x }
  | 2 => { d with scaleDen := x }
  | 3 => { d with offNum := x }
  | 4 => { d with offDen := x }
  | _ => d

/-- Word `w` of a channel (10_state R44 to R46). -/
def Channel.word (c : Channel) (w : Nat) : Word :=
  match w with
  | 0 => c.max
  | 1 => c.deltaUp
  | 2 => c.deltaDown
  | 3 => c.drvAllow
  | 4 => c.drvMult
  | 5 => c.drvFactor
  | 6 => c.errThresh
  | 7 => c.errMax
  | 8 => c.cfgWord
  | 9 => c.last
  | 10 => c.errAcc
  | 11 => c.flagsWord
  | _ => 0

/-- A host write of word `w` of a channel: the state words 9 to 11 are read-only (10_state R46, 20_memory R69). -/
def Channel.setWord (c : Channel) (w : Nat) (x : Word) : Channel :=
  match w with
  | 0 => { c with max := x }
  | 1 => { c with deltaUp := x }
  | 2 => { c with deltaDown := x }
  | 3 => { c with drvAllow := x }
  | 4 => { c with drvMult := x }
  | 5 => { c with drvFactor := x }
  | 6 => { c with errThresh := x }
  | 7 => { c with errMax := x }
  | 8 => { c with en := x.getLsbD 0, fbSel := x.getLsbD 1 }
  | _ => c

/-! ### Host reads -/

/-- The current value of a register (20_memory R81); a reserved offset reads 0 (R68). -/
def State.readTarget (s : State) : Target → Word
  | .params0 => Config.params0
  | .params1 => Config.params1
  | .ctrl => s.ctrlWord
  | .status => s.statusWord
  | .cmd => s.cmd
  | .errInfo => s.errInfo
  | .result0 => s.result0
  | .result1 => s.result1
  | .flen => s.flen.setWidth 32
  | .arg0 => s.arg0
  | .arg1 => s.arg1
  | .arg2 => s.arg2
  | .arg3 => s.arg3
  | .fbuf w => fbufWord s.fbuf w
  | .val j w => (s.slot j).word w
  | .msg i w => (s.msg i).word w
  | .sig k w => (s.sig k).word w
  | .chan c w => (s.chan c).word w
  | .reserved => 0

/-- The reads that return their current value while a command runs: those that 20_memory R71 lists, and the reserved
offsets, which read 0 (R68, 93_implementation_defined U17; log 4). The rest are the registers of U1. -/
def Target.readableWhileBusy : Target → Bool
  | .params0 | .params1 | .ctrl | .status | .cmd | .reserved => true
  | .msg _ _ | .sig _ _ => true
  | .val _ w => decide (9 ≤ w)
  | .chan _ w => decide (w ≤ 8) || decide (12 ≤ w)
  | .errInfo | .result0 | .result1 | .flen | .arg0 | .arg1 | .arg2 | .arg3 | .fbuf _ => false

/-- A host read: the current value, or a free value for a register a running command may change (20_memory R71, U1; log 3). -/
def State.hostRead (s : State) (off : Nat) : State :=
  if s.busy && !(target off).readableWhileBusy then
    { s with reply := .data (Config.busyRead s.draws), draws := s.draws + 1 }
  else { s with reply := .data (s.readTarget (target off)) }

/-! ### Host writes -/

/-- The words frozen in OPERATE: the descriptor regions and the configuration words of the channels (20_memory R70, case 2). -/
def Target.frozen : Target → Bool
  | .msg _ _ | .sig _ _ => true
  | .chan _ w => decide (w ≤ 8)
  | _ => false

/-- A write of `CTRL`: `IE` is written; in OPERATE bits [3:2] are kept, and a write that differs in them sets `WDROP`
(10_state R24, 20_memory R70, case 3). -/
def State.writeCtrl (s : State) (v : Word) : State :=
  { s with
    ie := v.getLsbD 1
    absentRaw0 := if s.locked then s.absentRaw0 else v.getLsbD 2
    rne := if s.locked then s.rne else v.getLsbD 3
    wdrop := s.wdrop || (s.locked && (v.getLsbD 2 != s.absentRaw0 || v.getLsbD 3 != s.rne)) }

/-- A write of `STATUS`: writing 1 clears `DONE` and `WDROP`, nothing else changes (10_state R25, 20_memory R69). -/
def State.writeStatus (s : State) (v : Word) : State :=
  { s with done := s.done && !v.getLsbD 1, wdrop := s.wdrop && !v.getLsbD 5 }

/-- A write that is not dropped (20_memory R68, R69, R73). -/
def State.writeTarget (s : State) (t : Target) (v : Word) : State :=
  match t with
  | .params0 | .params1 | .errInfo | .result0 | .result1 | .reserved => s
  | .ctrl => s.writeCtrl v
  | .status => s.writeStatus v
  | .cmd => s.accept v
  | .flen => { s with flen := v.extractLsb' 0 8 }
  | .arg0 => { s with arg0 := v }
  | .arg1 => { s with arg1 := v }
  | .arg2 => { s with arg2 := v }
  | .arg3 => { s with arg3 := v }
  | .fbuf w => { s with fbuf := fbufSetWord s.fbuf w v }
  | .val j w => s.setSlot j ((s.slot j).setWord w v)
  | .msg i w => s.setMsg i ((s.msg i).setWord w v)
  | .sig k w => s.setSig k ((s.sig k).setWord w v)
  | .chan c w => s.setChan c ((s.chan c).setWord w v)

/-- The write is dropped: while a command runs, every target but `CTRL` and `STATUS`; in OPERATE, the frozen words
(20_memory R70, cases 1 and 2). -/
def State.dropsWrite (s : State) (t : Target) : Bool :=
  (s.busy && !(decide (t = .ctrl) || decide (t = .status))) || (s.locked && t.frozen)

/-- A host write: dropped with `WDROP` set, or carried out (20_memory R70). -/
def State.hostWrite (s : State) (off : Nat) (v : Word) : State :=
  let t := target off
  let s := if s.dropsWrite t then { s with wdrop := true } else s.writeTarget t v
  { s with reply := .written }

/-! ### Events of the outside world -/

/-- Reset is asserted: the block's state is the reset state (10_state R50, 70_reset R280). A running command is abandoned.
What belongs to the outside world stays (log 7). -/
def State.assertReset (s : State) : State :=
  { State.reset with
    latencies := s.latencies, host := s.host, reply := s.reply, draws := s.draws, resetLine := true }

/-- The block accepts the access: 32 bits wide, at a multiple of 4 (20_memory R67). -/
def accessOk (width : Nat) (off : BitVec 16) : Bool := decide (width = 4) && decide (off.toNat % 4 = 0)

/-- One event of the outside world. While reset is asserted no access is accepted (70_reset R280). An access of the wrong
width or alignment is the host's fault `BusError` (60_exceptions R256). -/
def serveEvent (e : HostEvent) (s : State) : Result :=
  match e with
  | .idle => .next s
  | .setReset true => .next s.assertReset
  | .setReset false => .next { s with resetLine := false }
  | .read width off =>
    if s.resetLine then .next { s with reply := .notAccepted }
    else if accessOk width off then .next (s.hostRead off.toNat) else .fault (.busError off)
  | .write width off v =>
    if s.resetLine then .next { s with reply := .notAccepted }
    else if accessOk width off then .next (s.hostWrite off.toNat v) else .fault (.busError off)

/-- The state in which the outside world's next event is served: the event is off the list, and a latched command is one step
nearer to its completion (70_reset R290). -/
def State.advanced (s : State) : State := { s with host := s.host.tail, wait := s.wait - 1 }

/-- The outside world's turn: its next event, if there is one. The block never starts work on its own (00_scope R5). -/
def hostTurn (s : State) : Result :=
  match s.host with
  | [] => .next s.advanced
  | e :: _ => serveEvent e s.advanced

end Sys2Proof.Machine
end

