-- ==== Sys2Proof/Machine/Step.lean ====
section
/-! DEFINITION. One step of the machine. Two agents move, the block and the outside world (00_scope R5); the latch and the
countdown say which (log 1). -/

namespace Sys2Proof.Machine

/-- The block's turn: it completes the latched command, which is decoded here. A word that is no command completes with
`ILLEGAL_CMD`, the first of the common checks (60_exceptions R254). -/
def runCommand (w : Word) (s : State) : Result :=
  match decode w with
  | .ok i => exec i s
  | .error _ => illegalCommand w s

/-- One step. With a command latched and its delay passed, the block completes it (10_state R26). Otherwise it is the
outside world's turn. -/
def step (s : State) : Host.Outcome State Fault Refusal :=
  match s.pending with
  | none => hostTurn s
  | some w => if s.wait = 0 then runCommand w s else hostTurn s

/-- The state in which the command word `w` has been accepted and completes in the very next step: the block has no program
counter, and a program is the host's sequence of `CMD` writes (10_state R21, R26, R27; log 10). -/
def State.withFetchWord (s : State) (nbits w : Nat) : State :=
  { s with cmd := BitVec.ofNat 32 (w % 2 ^ nbits), pending := some (BitVec.ofNat 32 (w % 2 ^ nbits))
           done := false, wait := 0, resetLine := false }

end Sys2Proof.Machine
end

