-- ==== Sys2Proof/Safety.lean ====
section
/-! DEFINITION. The terms claims are stated in: the invariant of the machine, a catalog that `LOCK` accepts as the spec words
it (43_control R232), the table of R232 check by check, which commands name a message or a channel,
the writable and the defined bits of every window word, the reserved and the frozen offsets, the fields in the words of a
register file, and the rational arithmetic of 00_scope R9 that the integer arithmetic of the model stands for. -/

namespace Sys2Proof.Machine

/-! ### The invariant -/

/-- The frame buffer is in canonical form. -/
def State.memoryOk (s : State) : Bool := Memory.wf s.fbuf

/-- The register files are in canonical form, within their sizes (10_state R33, R37, R42, R44). -/
def State.tablesOk (s : State) : Bool :=
  tableWf Slot.reset Config.maxSigs s.vals && tableWf MsgDesc.reset Config.nmsg s.msgs &&
    tableWf SigDesc.reset Config.nsig s.sigs && tableWf Channel.reset Config.nchan s.chans

/-- The latch holds the word in `CMD`, and `DONE` is 0 while it is full (10_state R26, R27, R48). -/
def State.latchOk (s : State) : Bool :=
  match s.pending with
  | none => true
  | some w => decide (s.cmd = w) && !s.done

/-- In OPERATE the catalog passes every check of `LOCK` (43_control R231, 20_memory R70). -/
def State.catalogOk (s : State) : Bool := !s.locked || (lockFailure s).isNone

/-- The channel's LimiterState is as after reset (10_state R50). -/
def Channel.idle (c : Channel) : Bool :=
  decide (c.last = 0) && decide (c.errAcc = 0) && !c.temp && !c.perm && !c.ovr

/-- `TEMP` says that the accumulator exceeds `ERR_MAX` (42_limiter R207), and `abs(LAST) <= MAX` on an enabled channel in
OPERATE (R213). A channel no `LSTEP` can name, and every channel in CONFIG, is as after reset (log 13). -/
def Channel.ok (c : Channel) (locked : Bool) : Bool :=
  decide (c.temp = decide (c.errAcc.toNat > c.errMax.toNat)) &&
    (if locked && c.en then decide ((c.last.toInt.natAbs : Int) ≤ c.max.toInt) else c.idle)

/-- Every channel is as its configuration and the phase demand. -/
def State.limiterOk (s : State) : Bool := (List.range Config.nchan).all fun c => (s.chan c).ok s.locked

/-- While reset is asserted the block's state is the reset state (70_reset R280). -/
def State.resetOk (s : State) : Bool := !s.resetLine || decide (s.assertReset = s)

/-- The invariant: what holds in every state the machine can reach. -/
structure State.Inv (s : State) : Prop where
  memory : s.memoryOk = true
  tables : s.tablesOk = true
  latch : s.latchOk = true
  catalog : s.catalogOk = true
  limiter : s.limiterOk = true
  resetHeld : s.resetOk = true

/-! ### The catalog as R232 words it -/

/-- The message passes checks 0x01 to 0x0E. -/
structure MessageValid (s : State) (i : Nat) (m : MsgDesc) : Prop where
  len : 1 ≤ m.len.toNat ∧ m.len.toNat ≤ 64
  signalRange : m.sigCount.toNat ≤ 64 ∧ m.sigFirst.toNat + m.sigCount.toNat ≤ 512
  signalLength : ∀ j < m.sigCount.toNat, 1 ≤ (s.signalOf m j).bits ∧ (s.signalOf m j).bits ≤ 64
  scaleNonzero : ∀ j < m.sigCount.toNat, (s.signalOf m j).scaleNum.toInt ≠ 0
  denNonzero : ∀ j < m.sigCount.toNat, (s.signalOf m j).scaleDen.toNat ≠ 0 ∧ (s.signalOf m j).offDen.toNat ≠ 0
  withinFrame : ∀ j < m.sigCount.toNat, (s.signalOf m j).within m.len.toNat = true
  noOverlap : ∀ a b, a < b → b < m.sigCount.toNat →
    ∀ x ∈ (s.signalOf m a).frameBits, x ∉ (s.signalOf m b).frameBits
  csPos : m.csAlg = .crc8 ∨ m.csAlg = .passthrough → m.csPos.toNat < m.len.toNat
  csRange : m.csAlg = .crc8 → m.csEnd.toNat ≤ m.len.toNat ∧ m.csStart.toNat + m.csExcl.toNat ≤ m.csEnd.toNat
  csPosNotCovered : m.csAlg = .crc8 →
    ¬ ((m.csStart.toNat : Int) ≤ m.csPos.toNat ∧ (m.csPos.toNat : Int) < (m.csEnd.toNat : Int) - m.csExcl.toNat)
  counterOnly : m.csAlg = .counterOnly → m.cntEn = true
  counterWidth : m.cntEn = true → 1 ≤ m.cntW.toNat ∧ m.cntW.toNat ≤ 16
  counterWithin : m.cntEn = true → m.counterWithin = true
  unique : ∀ i' < i, (s.msg i').en = true → ¬ ((s.msg i').bus = m.bus ∧ (s.msg i').addr = m.addr)

/-- Words 0 to 6 of the channel are not negative (10_state R44). -/
structure ChannelValid (c : Channel) : Prop where
  max : 0 ≤ c.max.toInt
  deltaUp : 0 ≤ c.deltaUp.toInt
  deltaDown : 0 ≤ c.deltaDown.toInt
  drvAllow : 0 ≤ c.drvAllow.toInt
  drvMult : 0 ≤ c.drvMult.toInt
  drvFactor : 0 ≤ c.drvFactor.toInt
  errThresh : 0 ≤ c.errThresh.toInt

/-- Every enabled message and every enabled channel passes its checks. -/
structure CatalogValid (s : State) : Prop where
  messages : ∀ i < 64, (s.msg i).en = true → MessageValid s i (s.msg i)
  channels : ∀ c < 2, (s.chan c).en = true → ChannelValid (s.chan c)

/-- `slot` is the lowest slot below `n` with the property. -/
def LowestSlot (n : Nat) (fails : Nat → Prop) (slot : Nat) : Prop := slot < n ∧ fails slot ∧ ∀ j < slot, ¬ fails j

/-- The table of R232: message `i` fails check `code`, and `slot` is what the column SLOT says: the lowest slot that fails,
or 0xFF for a check without a slot. -/
def FailsCheck (s : State) (i code slot : Nat) : Prop :=
  let m := s.msg i
  let sigma := s.signalOf m
  match code with
  | 0x01 => slot = 0xFF ∧ (m.len.toNat = 0 ∨ m.len.toNat > 64)
  | 0x02 => slot = 0xFF ∧ (m.sigCount.toNat > 64 ∨ m.sigFirst.toNat + m.sigCount.toNat > 512)
  | 0x03 => LowestSlot m.sigCount.toNat (fun j => (sigma j).length.toNat = 0 ∨ (sigma j).length.toNat > 64) slot
  | 0x04 => LowestSlot m.sigCount.toNat (fun j => (sigma j).scaleNum.toInt = 0) slot
  | 0x05 => LowestSlot m.sigCount.toNat (fun j => (sigma j).scaleDen.toNat = 0 ∨ (sigma j).offDen.toNat = 0) slot
  | 0x06 => LowestSlot m.sigCount.toNat (fun j => (sigma j).within m.len.toNat = false) slot
  | 0x07 => LowestSlot m.sigCount.toNat
      (fun b => ∃ a < b, ∃ x, x ∈ (sigma a).frameBits ∧ x ∈ (sigma b).frameBits) slot
  | 0x08 => slot = 0xFF ∧ (m.csAlg = .crc8 ∨ m.csAlg = .passthrough) ∧ m.csPos.toNat ≥ m.len.toNat
  | 0x09 => slot = 0xFF ∧ m.csAlg = .crc8 ∧
      (m.csEnd.toNat > m.len.toNat ∨ m.csStart.toNat + m.csExcl.toNat > m.csEnd.toNat)
  | 0x0A => slot = 0xFF ∧ m.csAlg = .crc8 ∧ m.csStart.toNat ≤ m.csPos.toNat ∧
      (m.csPos.toNat : Int) < (m.csEnd.toNat : Int) - m.csExcl.toNat
  | 0x0B => slot = 0xFF ∧ m.csAlg = .counterOnly ∧ m.cntEn = false
  | 0x0C => slot = 0xFF ∧ m.cntEn = true ∧ (m.cntW.toNat = 0 ∨ m.cntW.toNat > 16)
  | 0x0D => slot = 0xFF ∧ m.cntEn = true ∧ fieldWithin m.cntStart.toNat m.cntW.toNat m.cntBe m.len.toNat = false
  | 0x0E => slot = 0xFF ∧ ∃ i' < i, (s.msg i').en = true ∧ (s.msg i').bus = m.bus ∧ (s.msg i').addr = m.addr
  | _ => False

/-! ### Operands of a command -/

/-- The message index of a message command (30_encoding R92). -/
def messageIndex : Instr → Option Nat
  | .encode idx _ => some idx
  | .decode idx => some idx
  | .cscomp idx => some idx
  | .csins idx => some idx
  | .csval idx => some idx
  | .cntrd idx => some idx
  | .cntwr idx => some idx
  | .cntnxt idx => some idx
  | .nop => none
  | .lookup => none
  | .vclr => none
  | .lock => none
  | .lstep _ => none
  | .lrst _ => none

/-- The channel index of a channel command (30_encoding R92). -/
def channelIndex : Instr → Option Nat
  | .lstep idx => some idx
  | .lrst idx => some idx
  | .nop => none
  | .encode _ _ => none
  | .decode _ => none
  | .cscomp _ => none
  | .csins _ => none
  | .csval _ => none
  | .cntrd _ => none
  | .cntwr _ => none
  | .cntnxt _ => none
  | .lookup => none
  | .vclr => none
  | .lock => none

/-- `ERR_INFO` of an error of the command itself: `SLOT = 0xFF`, `INDEX = IDX`, `KIND = CHECK = 0` (60_exceptions R254). -/
def commandErrInfo (idx : Nat) : Word := 0xFF00#32 ||| BitVec.ofNat 32 (idx % 256)

/-- The operand of a command, 0 for a command without one. -/
def operandIndex (i : Instr) : Nat := ((messageIndex i).or (channelIndex i)).getD 0

/-- The covered bytes as R161 words them: the frame bytes with indices from `CS_START` up to `CS_END - CS_EXCL - 1`. -/
def MsgDesc.coveredBytes (m : MsgDesc) (f : Memory) : List Byte :=
  ((List.range 256).filter fun k =>
    decide (m.csStart.toNat ≤ k) && decide ((k : Int) < (m.csEnd.toNat : Int) - m.csExcl.toNat)).map f.read

/-- Slot `j` is refused by `ENCODE`: given, not in raw mode, and without a value (40_codec R128). -/
def Slot.refusedByEncode (v : Slot) : Prop := v.present = true ∧ v.rawIn = false ∧ v.den = 0

/-! ### The window -/

/-- The bits of a word that a host write changes in CONFIG while no command runs, for the words that only store data
(10_state R24, R30 to R45; every other bit is reserved, read-only or of another kind). -/
def Target.storedBits : Target → Word
  | .ctrl => 0x0000000E
  | .flen => 0x000000FF
  | .arg0 | .arg1 | .arg2 | .arg3 => 0xFFFFFFFF
  | .fbuf _ => 0xFFFFFFFF
  | .val _ w => if w < 8 then 0xFFFFFFFF else if w = 8 then 0x00000005 else 0
  | .msg _ w =>
    match w with
    | 0 => 0x00FFFF0F
    | 1 => 0xFFFFFFFF
    | 2 => 0xFFFF00FF
    | 3 => 0xFFFFFFFF
    | 4 => 0x000000FF
    | 5 => 0x011FFFFF
    | _ => 0
  | .sig _ w => if w = 0 then 0x037FFFFF else if w < 5 then 0xFFFFFFFF else 0
  | .chan _ w => if w < 8 then 0xFFFFFFFF else if w = 8 then 0x00000003 else 0
  | .params0 | .params1 | .status | .cmd | .errInfo | .result0 | .result1 | .reserved => 0

/-- The bits of a word that belong to a field; the others are reserved and read 0 (10_state R22 to R46, 20_memory R68). -/
def Target.definedBits : Target → Word
  | .ctrl => 0x0000000E
  | .status => 0x0000FF3F
  | .params0 => 0xFFFFFFFF
  | .params1 => 0x00FFFFFF
  | .cmd | .errInfo | .result0 | .result1 | .arg0 | .arg1 | .arg2 | .arg3 | .fbuf _ => 0xFFFFFFFF
  | .flen => 0x000000FF
  | .val _ w => if w < 8 then 0xFFFFFFFF else if w = 8 then 0x00000007 else 0
  | .msg i w => (Target.msg i w).storedBits
  | .sig k w => (Target.sig k w).storedBits
  | .chan _ w =>
    if w < 8 then 0xFFFFFFFF else if w = 8 then 0x00000003 else if w < 11 then 0xFFFFFFFF
    else if w = 11 then 0x00000007 else 0
  | .reserved => 0

/-- The offset is reserved: a gap of the map of 20_memory R74, or a word that 10_state R33, R41, R43 or R46 calls reserved. -/
def reservedOffset (off : Nat) : Prop :=
  (0x034 ≤ off ∧ off ≤ 0x0FC) ∨ (0x140 ≤ off ∧ off ≤ 0xFFC) ∨ (0x2800 ≤ off ∧ off ≤ 0x3FFC) ∨ 0x8080 ≤ off ∨
    (0x1000 ≤ off ∧ off ≤ 0x1FFC ∧ 0x24 ≤ off % 64) ∨ (0x2000 ≤ off ∧ off ≤ 0x27FC ∧ 0x18 ≤ off % 32) ∨
    (0x4000 ≤ off ∧ off ≤ 0x7FFC ∧ 0x14 ≤ off % 32) ∨ (0x8000 ≤ off ∧ off ≤ 0x807C ∧ 0x30 ≤ off % 64)

/-- The descriptor regions and the configuration words of the channels (20_memory R70, case 2). -/
def frozenOffset (off : Nat) : Prop :=
  (0x2000 ≤ off ∧ off ≤ 0x27FF) ∨ (0x4000 ≤ off ∧ off ≤ 0x7FFF) ∨ (0x8000 ≤ off ∧ off ≤ 0x8020) ∨
    (0x8040 ≤ off ∧ off ≤ 0x8060)

/-- Case 1 of 20_memory R70. -/
def State.droppedWhileBusy (s : State) (off : BitVec 16) : Prop := s.busy = true ∧ off ≠ 0x008 ∧ off ≠ 0x00C

/-- Case 2 of 20_memory R70. -/
def State.droppedAsFrozen (s : State) (off : BitVec 16) : Prop := s.phase = .operate ∧ frozenOffset off.toNat

/-- Case 3 of 20_memory R70: of a write of `CTRL`, bits [3:2] are dropped. -/
def State.ctrlBitsDropped (s : State) (off : BitVec 16) (v : Word) : Prop :=
  s.phase = .operate ∧ off = 0x008 ∧ (v.getLsbD 2 ≠ s.absentRaw0 ∨ v.getLsbD 3 ≠ s.rne)

/-! ### The fields in the words of a register file -/

/-- The words that the host reads at `base`, `base + 4`, and so on. -/
def State.wordsAt (s : State) (base : Nat) : Nat → Word := fun w => s.readTarget (target (base + 4 * w))

/-- The message descriptor whose words are `x` (10_state R37 to R41). -/
def MsgDesc.ofWords (x : Nat → Word) : MsgDesc where
  en := (x 0).getLsbD 0
  csAlg := [CsAlg.none, .crc8, .passthrough, .counterOnly].getD ((x 0).extractLsb' 1 2).toNat .none
  cntEn := (x 0).getLsbD 3
  len := (x 0).extractLsb' 8 8
  sigCount := (x 0).extractLsb' 16 8
  addr := x 1
  bus := (x 2).extractLsb' 0 8
  sigFirst := (x 2).extractLsb' 16 16
  csStart := (x 3).extractLsb' 0 8
  csEnd := (x 3).extractLsb' 8 8
  csExcl := (x 3).extractLsb' 16 8
  csPos := (x 3).extractLsb' 24 8
  csFxor := (x 4).extractLsb' 0 8
  cntStart := (x 5).extractLsb' 0 16
  cntW := (x 5).extractLsb' 16 5
  cntBe := (x 5).getLsbD 24

/-- The signal descriptor whose words are `x` (10_state R42, R43). -/
def SigDesc.ofWords (x : Nat → Word) : SigDesc where
  start := (x 0).extractLsb' 0 16
  length := (x 0).extractLsb' 16 7
  signed := (x 0).getLsbD 24
  be := (x 0).getLsbD 25
  scaleNum := x 1
  scaleDen := x 2
  offNum := x 3
  offDen := x 4

/-- The limiter channel whose words are `x` (10_state R44 to R46). -/
def Channel.ofWords (x : Nat → Word) : Channel where
  max := x 0
  deltaUp := x 1
  deltaDown := x 2
  drvAllow := x 3
  drvMult := x 4
  drvFactor := x 5
  errThresh := x 6
  errMax := x 7
  en := (x 8).getLsbD 0
  fbSel := (x 8).getLsbD 1
  last := x 9
  errAcc := x 10
  temp := (x 11).getLsbD 0
  perm := (x 11).getLsbD 1
  ovr := (x 11).getLsbD 2

/-- The value slot whose words are `x`, each wide register with its low word first (10_state R33 to R36, 20_memory R66). -/
def Slot.ofWords (x : Nat → Word) : Slot where
  num := x 3 ++ x 2 ++ x 1 ++ x 0
  den := x 5 ++ x 4
  raw := x 7 ++ x 6
  present := (x 8).getLsbD 0
  oor := (x 8).getLsbD 1
  rawIn := (x 8).getLsbD 2

/-- The outside world moves in this step: no command is latched, or its delay has not passed. -/
def State.hostMoves (s : State) : Prop := s.pending = none ∨ s.wait ≠ 0

/-- The state in which the outside world's event `e` is about to be served. -/
def State.facing (s : State) (e : HostEvent) : Prop :=
  s.hostMoves ∧ s.resetLine = false ∧ ∃ rest, s.host = e :: rest

/-! ### Rational arithmetic (00_scope R9) -/

/-- The sign of a rational: -1, 0 or 1. -/
def ratSign (q : ℚ) : ℤ := if q < 0 then -1 else if q = 0 then 0 else 1

/-- `round_HA(q) = sign(q) * floor(abs(q) + 1/2)`. -/
def ratRoundHA (q : ℚ) : ℤ := ratSign q * ⌊|q| + 1 / 2⌋

/-- `round_HE(q)`: `f` if `r < 1/2`, `f + 1` if `r > 1/2`, and the even one of the two if `r = 1/2`. -/
def ratRoundHE (q : ℚ) : ℤ :=
  if q - ⌊q⌋ < 1 / 2 then ⌊q⌋
  else if 1 / 2 < q - ⌊q⌋ then ⌊q⌋ + 1
  else if 2 ∣ ⌊q⌋ then ⌊q⌋ else ⌊q⌋ + 1

/-- `round(q)`, by `CTRL.RNE`. -/
def ratRound (rne : Bool) (q : ℚ) : ℤ := if rne then ratRoundHE q else ratRoundHA q

/-- `scale = sn / sd` (10_state R43). -/
def SigDesc.scale (d : SigDesc) : ℚ := (d.scaleNum.toInt : ℚ) / (d.scaleDen.toNat : ℚ)

/-- `offset = on / od` (10_state R43). -/
def SigDesc.offset (d : SigDesc) : ℚ := (d.offNum.toInt : ℚ) / (d.offDen.toNat : ℚ)

/-- The physical value of a slot, `s128(NUM) / u64(DEN)` (10_state R34). -/
def Slot.value (v : Slot) : ℚ := (v.num.toInt : ℚ) / (v.den.toNat : ℚ)

end Sys2Proof.Machine
end

