-- ==== Sys2Proof/Certificates/Slice0/Obligations.lean ====
section
/-! DEFINITION. The statements for the provers. A statement of a command's result gives the whole next state, as an update of
the state before, so that it is the command's frame and its completion as well. -/

open Sys2Proof Sys2Proof.Machine

/-! ### Encoding (30_encoding) -/

/-- Decoding the word of a well-formed command gives the command back, with every operand (R90 to R100). -/
def Obligations.DecodingAnEncodedCommandGivesItBack : Prop :=
  ∀ i : Instr, wellFormed i = true → decode (encode i) = .ok i

/-- Every word that is a command is the word of that command: no two words are one command, and no bit is ignored. -/
def Obligations.EncodingADecodedWordGivesItBack : Prop :=
  ∀ (w : Word) (i : Instr), decode w = .ok i → encode i = w ∧ wellFormed i = true

/-- The decoder is the opcode map of R95: a word has the one row that covers it, and is rejected if none does. -/
def Obligations.DecoderFollowsTheOpcodeMap : Prop :=
  ∀ w : Word, (opcodeMap.filter fun r => r.covers w).map OpcodeRow.mnemonic =
    match decode w with
    | .ok i => [mnemonicOf i]
    | .error _ => []

/-- The worked encodings of R103, and one word of every family. -/
def Obligations.WorkedEncodingsDecode : Prop :=
  decode 0x00010301 = .ok (.encode 3 true) ∧ decode 0x00000004 = .ok (.csins 0) ∧
  decode 0x00000110 = .ok (.lstep 1) ∧ decode 0x0000000F = .ok .lock ∧
  decode 0x0000FF02 = .ok (.decode 255) ∧ decode 0x00000506 = .ok (.cntrd 5) ∧
  decode 0x00000000 = .ok .nop ∧
  decode 0x00000109 = .error .idxNotZero ∧ decode 0x00010002 = .error .clrNotAllowed ∧
  decode 0x00000012 = .error (.undefinedOpcode 0x12)

/-- R97: a word that no row covers completes with `ILLEGAL_CMD` and no other effect, and the words R97 lists are such. -/
def Obligations.IllegalWordCompletesWithIllegalCmd : Prop :=
  (∀ (s : State) (w : Word), s.pending = some w → s.wait = 0 → (∀ r ∈ opcodeMap, r.covers w = false) →
    step s = .next { s with
      err := .illegalCmd, errInfo := 0xFF00#32 ||| ((w >>> 8) &&& 0xFF#32), done := true, pending := none }) ∧
  (∀ w : Word,
    ((0x0B ≤ (w.extractLsb' 0 8).toNat ∧ (w.extractLsb' 0 8).toNat ≤ 0x0E) ∨ 0x12 ≤ (w.extractLsb' 0 8).toNat) ∨
    w >>> 17 ≠ 0 ∨
    (w.getLsbD 16 = true ∧ w.extractLsb' 0 8 ≠ 0x01) ∨
    (w.extractLsb' 8 8 ≠ 0 ∧ w.extractLsb' 0 8 ∈ [0x00, 0x09, 0x0A, 0x0F]) →
    ∀ r ∈ opcodeMap, r.covers w = false)

/-! ### The step -/

/-- A step at which the latched command's delay has passed is `exec` of the decoded command; otherwise the outside world
moves. The word that `withFetchWord` latches is run by the very next step. The latch is the spec's (R26, R27, R48); that a
countdown in the state decides who moves is the model's choice (log 1, DESIGN CHOICE), and `withFetchWord` is the model's
name for the state after an accepted `CMD` write with delay 0 (log 10, DEDUCED). -/
def Obligations.StepRunsTheDecodedCommand : Prop :=
  (∀ (s : State) (w : Word) (i : Instr), s.pending = some w → decode w = .ok i →
    (s.wait = 0 → step s = exec i s) ∧ (s.wait ≠ 0 → step s = hostTurn s)) ∧
  (∀ s : State, s.pending = none → step s = hostTurn s) ∧
  (∀ (s : State) (w : Word) (i : Instr), decode w = .ok i →
    step (s.withFetchWord 32 w.toNat) = exec i (s.withFetchWord 32 w.toNat))

/-- Every command, in every state, completes: it answers a next state with `DONE = 1` and `BUSY = 0` (R26, R259, R290). It
writes no argument, no descriptor, no control bit and nothing of the outside world (R31). -/
def Obligations.EveryCommandCompletes : Prop :=
  ∀ (i : Instr) (s : State), ∃ t, exec i s = .next t ∧ t.done = true ∧ t.busy = false ∧
    t.cmd = s.cmd ∧ t.ie = s.ie ∧ t.absentRaw0 = s.absentRaw0 ∧ t.rne = s.rne ∧ t.wdrop = s.wdrop ∧
    t.arg0 = s.arg0 ∧ t.arg1 = s.arg1 ∧ t.arg2 = s.arg2 ∧ t.arg3 = s.arg3 ∧ t.msgs = s.msgs ∧ t.sigs = s.sigs ∧
    t.host = s.host ∧ t.latencies = s.latencies ∧ t.wait = s.wait ∧ t.draws = s.draws ∧ t.reply = s.reply ∧
    t.resetLine = s.resetLine

/-- R252: a command that ends in error writes `STATUS.ERR`, `ERR_INFO`, `DONE` and the latch, and no other state. The info
packed into `ERR_INFO` names the command's operand with `SLOT = 0xFF`, but for `BAD_VALUE` and `BAD_DESCRIPTOR`. -/
def Obligations.FailedCommandWritesOnlyErrorFields : Prop :=
  ∀ (i : Instr) (s t : State), exec i s = .next t → t.err ≠ .none →
    ∃ info : ErrInfo,
      t = { s with
        err := t.err
        errInfo := (info.kind.setWidth 32 <<< 24) ||| (info.check.setWidth 32 <<< 16) |||
          (info.slot.setWidth 32 <<< 8) ||| info.index.setWidth 32
        done := true, pending := none } ∧
      (t.err ≠ .badDescriptor → info.kind = 0 ∧ info.check = 0 ∧ info.index.toNat = operandIndex i % 256) ∧
      (t.err ≠ .badDescriptor → t.err ≠ .badValue → info.slot = 0xFF) ∧
      (t.err = .badValue → (s.slot info.slot.toNat).refusedByEncode) ∧
      (t.err = .badDescriptor → info.kind = 1 ∨ info.kind = 2)

/-- R253: the completion fields of a command without error. -/
def Obligations.SuccessfulCommandWritesCompletionFields : Prop :=
  ∀ (i : Instr) (s t : State), exec i s = .next t → t.err = .none →
    t.errInfo = 0 ∧ t.done = true ∧ t.busy = false

/-- The phase check of R254: in CONFIG every command but `NOP`, `VCLR` and `LOCK` fails with `NOT_LOCKED`, and in OPERATE
`LOCK` fails with `ALREADY_LOCKED`; nothing else is written. -/
def Obligations.CommandsNeedTheirPhase : Prop :=
  (∀ (i : Instr) (s : State), i ≠ .nop → i ≠ .vclr → i ≠ .lock → s.phase = .config →
    exec i s = .next { s with
      err := .notLocked, errInfo := commandErrInfo (operandIndex i), done := true, pending := none }) ∧
  (∀ s : State, s.phase = .operate →
    exec .lock s = .next { s with err := .alreadyLocked, errInfo := 0x0000FF00, done := true, pending := none })

/-- The index check of R254: a message command that names no enabled message, and a channel command that names no enabled
channel, fail with `BAD_INDEX`; nothing else is written. -/
def Obligations.BadIndexIsReported : Prop :=
  (∀ (i : Instr) (idx : Nat) (s : State), messageIndex i = some idx → s.phase = .operate →
    (64 ≤ idx ∨ (s.msg idx).en = false) →
    exec i s = .next { s with err := .badIndex, errInfo := commandErrInfo idx, done := true, pending := none }) ∧
  (∀ (i : Instr) (idx : Nat) (s : State), channelIndex i = some idx → s.phase = .operate →
    (2 ≤ idx ∨ (s.chan idx).en = false) →
    exec i s = .next { s with err := .badIndex, errInfo := commandErrInfo idx, done := true, pending := none })

/-- Completion is certain (R290): whatever accesses the host makes meanwhile, the block completes the latched command after
its delay, unless a bus error ends the host's run or reset abandons the command. R290 gives no number: that the delay is the
field `wait`, counted in turns of the outside world, is the model's choice (log 1, log 2, DESIGN CHOICE), and that a bus
error ends the run is the model's form of it (log 5, DEDUCED). -/
def Obligations.LatchedCommandCompletesAfterItsDelay : Prop :=
  ∀ (s : State) (w : Word), s.pending = some w → s.resetLine = false →
    (∀ e ∈ s.host.take s.wait, e = .idle ∨ (∃ off, e = .read 4 off ∧ off.toNat % 4 = 0) ∨
      (∃ off v, e = .write 4 off v ∧ off.toNat % 4 = 0)) →
    ∃ t, Host.Core.run Sys2Proof.core (s.wait + 1) s = .next t ∧ t.busy = false ∧ t.done = true ∧ t.cmd = s.cmd

/-! ### NOP, VCLR -/

/-- R230: `NOP` is the word 0 and writes only the completion fields, in either phase. -/
def Obligations.NopWritesOnlyCompletionFields : Prop :=
  (∀ w : Word, decode w = .ok .nop ↔ w = 0x00000000) ∧
  ∀ s : State, exec .nop s = .next { s with err := .none, errInfo := 0, done := true, pending := none }

/-- R130: `VCLR` is the word 0x0000000A. It brings every value slot to its reset value, in either phase, and writes nothing
else. -/
def Obligations.VclrRestoresTheValueFile : Prop :=
  (∀ w : Word, decode w = .ok .vclr ↔ w = 0x0000000A) ∧
  ∀ s : State, ∃ t, exec .vclr s = .next t ∧
    (∀ j, t.slot j = { num := 0, den := 1, raw := 0, present := false, oor := false, rawIn := false }) ∧
    t = { s with vals := t.vals, err := .none, errInfo := 0, done := true, pending := none }

/-! ### Signal values (40_codec section 1) -/

/-- R123, R124: the raw value before clamping of a given value is the exact rational quotient, rounded by `CTRL.RNE`, which
is 0 after reset. The two roundings differ only on a quotient halfway between two integers. -/
def Obligations.GivenValueRoundsTheExactQuotient : Prop :=
  (∀ (d : SigDesc) (rne absentRaw0 : Bool) (v : Slot), v.present = true → v.rawIn = false → v.den.toNat ≠ 0 →
    d.scaleNum.toInt ≠ 0 → d.scaleDen.toNat ≠ 0 → d.offDen.toNat ≠ 0 →
    d.rawBeforeClamp rne absentRaw0 v = ratRound rne ((v.value - d.offset) / d.scale) ∧
    (v.value - d.offset) / d.scale =
      ((v.num.toInt : ℚ) * d.offDen.toNat - d.offNum.toInt * v.den.toNat) * d.scaleDen.toNat /
        ((v.den.toNat : ℚ) * d.offDen.toNat * d.scaleNum.toInt)) ∧
  (∀ q : ℚ, ratRound true q ≠ ratRound false q → q - ⌊q⌋ = 1 / 2) ∧ State.reset.rne = false

/-- R127 and R126: a signal not given is encoded from physical zero or as raw zero, by `CTRL.ABSENT_RAW0`, which is 0 after
reset; the two differ only if the offset is not 0. A slot in raw mode is read from `RAW` by the signal's signedness, whatever
`NUM` and `DEN` hold, and clamped like any other. -/
def Obligations.AbsentAndRawModeValues : Prop :=
  (∀ (d : SigDesc) (rne : Bool) (v : Slot), v.present = false →
    d.scaleNum.toInt ≠ 0 → d.scaleDen.toNat ≠ 0 → d.offDen.toNat ≠ 0 →
    d.rawBeforeClamp rne false v = ratRound rne ((0 - d.offset) / d.scale) ∧ d.rawBeforeClamp rne true v = 0 ∧
    (d.offset = 0 → d.rawBeforeClamp rne false v = 0)) ∧
  State.reset.absentRaw0 = false ∧
  (∀ (s : State) (m : MsgDesc) (j : Nat), (s.slot j).present = true → (s.slot j).rawIn = true →
    let d := s.signalOf m j
    let r0 := if d.signed then (s.slot j).raw.toInt else ((s.slot j).raw.toNat : Int)
    d.rawBeforeClamp s.rne s.absentRaw0 (s.slot j) = r0 ∧ slotRaw m s j = min (max r0 d.lo) d.hi)

/-- R120, R121: the raw value of a signal in a frame lies in its range and is congruent to its field modulo `2^L`: the
two's-complement reading of a signed field, the field itself otherwise. -/
def Obligations.RawValueIsTheFieldInRange : Prop :=
  ∀ (d : SigDesc) (f : Memory), 1 ≤ d.bits →
    (d.signed = true → -(2 ^ (d.bits - 1)) ≤ d.rawOf f ∧ d.rawOf f ≤ 2 ^ (d.bits - 1) - 1) ∧
    (d.signed = false → 0 ≤ d.rawOf f ∧ d.rawOf f ≤ 2 ^ d.bits - 1) ∧
    d.rawOf f % 2 ^ d.bits = d.get f

/-- R122: the pair that `DECODE` stores denotes `r * scale + offset` exactly; it fits its registers. -/
def Obligations.DecodedPairIsTheExactPhysicalValue : Prop :=
  ∀ (d : SigDesc) (f : Memory), 1 ≤ d.bits → d.bits ≤ 64 → d.scaleDen.toNat ≠ 0 → d.offDen.toNat ≠ 0 →
    (decodedSlot d (d.rawOf f)).value = (d.rawOf f : ℚ) * d.scale + d.offset ∧
    (decodedSlot d (d.rawOf f)).num.toInt = d.physNum (d.rawOf f) ∧
    ((decodedSlot d (d.rawOf f)).den.toNat : Int) = d.physDen ∧
    (decodedSlot d (d.rawOf f)).raw = (if d.signed then BitVec.ofInt 64 (d.rawOf f) else BitVec.ofNat 64 (d.get f))

/-! ### Frame bits (20_memory section 2) -/

/-- R64: `FieldSet` stores the value and changes exactly the bits of the field, which are `L` different bits; `FieldGet` has
those bits and is below `2^L`. -/
def Obligations.FieldSetWritesExactlyTheField : Prop :=
  ∀ (f : Memory) (s len : Nat) (be : Bool) (u : Nat), fieldWithin s len be 64 = true → u < 2 ^ len →
    fieldGet (fieldSet f s len be u) s len be = u ∧
    (∀ k < len, frameBitGet (fieldSet f s len be u) (bitpos s len be k) = u.testBit k) ∧
    (∀ b, b ∉ fieldBits s len be → frameBitGet (fieldSet f s len be u) b = frameBitGet f b) ∧
    (fieldBits s len be).Nodup ∧ (fieldBits s len be).length = len ∧
    (∀ k < len, (fieldGet f s len be).testBit k = frameBitGet f (bitpos s len be k)) ∧ fieldGet f s len be < 2 ^ len

/-- R62, R63 in words: a little-endian field runs upward from its start bit; a big-endian field has its most significant bit
at the start bit, runs down to bit 0 of the byte, and goes on at bit 7 of the next byte. A field lies within a message iff
all of its bits do. -/
def Obligations.FieldBitsRunAsTheEndiannessSays : Prop :=
  (∀ s len : Nat, bitpos s len false 0 = s ∧ ∀ k, bitpos s len false (k + 1) = bitpos s len false k + 1) ∧
  (∀ s len : Nat, 1 ≤ len → bitpos s len true (len - 1) = s) ∧
  (∀ s len k : Nat, k + 1 < len → bitpos s len true k =
    if bitpos s len true (k + 1) % 8 = 0 then bitpos s len true (k + 1) + 15 else bitpos s len true (k + 1) - 1) ∧
  (∀ (s len : Nat) (be : Bool) (bytes : Nat), 1 ≤ len →
    (fieldWithin s len be bytes = true ↔ ∀ b ∈ fieldBits s len be, b < 8 * bytes))

/-- R65: the word of the window at `0x100 + 4*w` holds byte `4*w + t` in bits `[8*t+7 : 8*t]`, and a host write of it writes
those four bytes and no other. -/
def Obligations.FrameWordsPackFourBytes : Prop :=
  ∀ (s : State) (w t : Nat), w < 16 → t < 4 →
    let x := target (0x100 + 4 * w)
    (s.readTarget x).extractLsb' (8 * t) 8 = s.fbuf.read (4 * w + t) ∧
    (∀ v : Word, (s.writeTarget x v).fbuf.read (4 * w + t) = v.extractLsb' (8 * t) 8) ∧
    (∀ (v : Word) (a : Nat), a / 4 ≠ w → (s.writeTarget x v).fbuf.read a = s.fbuf.read a)

/-! ### ENCODE and DECODE (40_codec section 2) -/

/-- `ENCODE` on a valid message whose slots are all good. Each signal's field holds its value clamped to the signal's range
(R125), each slot's `RAW` and `OOR` say so, `STATUS.OOR` says whether any value was clamped, and every frame bit outside
the fields is kept or, with `CLR`, cleared within the message (R133). -/
def Obligations.EncodePacksClampedValues : Prop :=
  ∀ (s : State) (i : Nat) (clr : Bool), s.phase = .operate → i < 64 → (s.msg i).en = true →
    MessageValid s i (s.msg i) → (∀ j < (s.msg i).sigCount.toNat, ¬ (s.slot j).refusedByEncode) →
    let m := s.msg i
    let d := fun j => s.signalOf m j
    let r0 := fun j => (d j).rawBeforeClamp s.rne s.absentRaw0 (s.slot j)
    let r := fun j => min (max (r0 j) (d j).lo) (d j).hi
    ∃ t, exec (.encode i clr) s = .next t ∧
      (∀ j < m.sigCount.toNat, ((d j).get t.fbuf : Int) = r j % 2 ^ (d j).bits) ∧
      (∀ j < m.sigCount.toNat,
        t.slot j = { s.slot j with raw := BitVec.ofInt 64 (r j), oor := decide (r j ≠ r0 j) }) ∧
      (∀ j, m.sigCount.toNat ≤ j → t.slot j = s.slot j) ∧
      (t.oor = true ↔ ∃ j < m.sigCount.toNat, r j ≠ r0 j) ∧
      (∀ b, (∀ j < m.sigCount.toNat, b ∉ (d j).frameBits) → frameBitGet t.fbuf b =
        if clr = true ∧ b < 8 * m.len.toNat then false else frameBitGet s.fbuf b) ∧
      t = { s with
        fbuf := t.fbuf, vals := t.vals, oor := t.oor, flen := m.len
        err := .none, errInfo := 0, done := true, pending := none }

/-- `ENCODE` refuses the lowest given, non-raw slot with `DEN = 0`, before any write (R128). -/
def Obligations.EncodeRefusesASlotWithoutValue : Prop :=
  ∀ (s : State) (i : Nat) (clr : Bool) (j : Nat), s.phase = .operate → i < 64 → (s.msg i).en = true →
    j < (s.msg i).sigCount.toNat → (s.slot j).refusedByEncode → (∀ k < j, ¬ (s.slot k).refusedByEncode) →
    exec (.encode i clr) s = .next { s with
      err := .badValue, errInfo := BitVec.ofNat 32 (256 * j + i), done := true, pending := none }

/-- `DECODE` of a frame of the right length: each slot of the message holds the raw value and the unreduced physical pair,
`PRESENT` and no other flag; the other slots and the frame are kept (R129). -/
def Obligations.DecodeFillsTheSlots : Prop :=
  ∀ (s : State) (i : Nat), s.phase = .operate → i < 64 → (s.msg i).en = true → MessageValid s i (s.msg i) →
    s.flen = (s.msg i).len →
    ∃ t, exec (.decode i) s = .next t ∧
      (∀ j < (s.msg i).sigCount.toNat,
        let d := s.signalOf (s.msg i) j
        let r := d.rawOf s.fbuf
        t.slot j = {
          num := BitVec.ofInt 128 (r * d.scaleNum.toInt * d.offDen.toNat + d.offNum.toInt * d.scaleDen.toNat)
          den := BitVec.ofNat 64 (d.scaleDen.toNat * d.offDen.toNat)
          raw := BitVec.ofInt 64 r, present := true, oor := false, rawIn := false }) ∧
      (∀ j, (s.msg i).sigCount.toNat ≤ j → t.slot j = s.slot j) ∧
      t = { s with vals := t.vals, err := .none, errInfo := 0, done := true, pending := none }

/-- The errors of a message command's own checks (R254): a frame of the wrong length, a message without checksum byte, a
message without counter. `NO_CHECKSUM` comes before the length. Nothing else is written. -/
def Obligations.MessageErrorsAreReported : Prop :=
  ∀ (s : State) (i : Nat), s.phase = .operate → i < 64 → (s.msg i).en = true →
    let fails := fun (c : ErrCode) => Host.Outcome.next (φ := Fault) (ρ := Refusal)
      { s with err := c, errInfo := commandErrInfo i, done := true, pending := none }
    (s.flen ≠ (s.msg i).len → exec (.decode i) s = fails .lengthMismatch) ∧
    (s.flen ≠ (s.msg i).len → (s.msg i).csAlg ≠ .none → exec (.csval i) s = fails .lengthMismatch) ∧
    ((s.msg i).csAlg = .none → exec (.csval i) s = fails .noChecksum) ∧
    ((s.msg i).csAlg = .none ∨ (s.msg i).csAlg = .counterOnly →
      exec (.cscomp i) s = fails .noChecksum ∧ exec (.csins i) s = fails .noChecksum) ∧
    ((s.msg i).cntEn = false → exec (.cntrd i) s = fails .noCounter ∧ exec (.cntwr i) s = fails .noCounter ∧
      exec (.cntnxt i) s = fails .noCounter)

/-- Decode, then encode: after `DECODE i` of any frame of the right length, `ENCODE i` with `CLR = 0` leaves every byte of the
frame as it was and clamps nothing (R132). -/
def Obligations.ReencodingADecodedFrameKeepsIt : Prop :=
  ∀ (s : State) (i : Nat), s.Inv → s.phase = .operate → i < 64 → (s.msg i).en = true → s.flen = (s.msg i).len →
    ∃ t u, exec (.decode i) s = .next t ∧ exec (.encode i false) t = .next u ∧
      (∀ a, u.fbuf.read a = s.fbuf.read a) ∧ u.oor = false ∧ u.flen = s.flen ∧
      (∀ j, u.slot j = t.slot j)

/-- Encode, then decode: a given value whose rounded quotient is in range comes back within half a scale, and exactly when
it is the value of an integer raw value (R131). -/
def Obligations.EncodedValueDecodesWithinHalfAScale : Prop :=
  ∀ (s : State) (i j : Nat) (clr : Bool), s.Inv → s.phase = .operate → i < 64 → (s.msg i).en = true →
    (∀ k < (s.msg i).sigCount.toNat, ¬ (s.slot k).refusedByEncode) →
    j < (s.msg i).sigCount.toNat → (s.slot j).present = true → (s.slot j).rawIn = false →
    let d := s.signalOf (s.msg i) j
    let q := ((s.slot j).value - d.offset) / d.scale
    d.lo ≤ ratRound s.rne q → ratRound s.rne q ≤ d.hi →
    ∃ t u, exec (.encode i clr) s = .next t ∧ exec (.decode i) t = .next u ∧
      |(u.slot j).value - (s.slot j).value| ≤ |d.scale| / 2 ∧
      ((∃ r : ℤ, (s.slot j).value = r * d.scale + d.offset) → (u.slot j).value = (s.slot j).value)

/-! ### Checksum and counter (41_checksum_counter) -/

/-- The CRC vectors V1 to V4 of the source, and the checksum of no bytes (R160). -/
def Obligations.CrcVectorsHold : Prop :=
  crc8 [0x17, 0x51, 0x97, 0xCC, 0x00] 0xFF = 0xDF ∧ crc8 [0x17, 0x51, 0x97, 0xC9, 0x01] 0xFF = 0xA3 ∧
  crc8 [0x7C, 0x43, 0x57, 0x60, 0x00, 0x00] 0xFF = 0xA1 ∧ crc8 [0x02, 0x0E] 0xFF = 0x80 ∧
  ∀ fx : Byte, crc8 [] fx = 0xFF ^^^ fx

/-- `CSCOMP`: the CRC of the covered bytes, or the checksum byte itself under passthrough, in `RESULT0` (R161 to R163). -/
def Obligations.CscompGivesTheChecksum : Prop :=
  ∀ (s : State) (i : Nat), s.phase = .operate → i < 64 → (s.msg i).en = true →
    let m := s.msg i
    let answers := fun (c : Byte) => Host.Outcome.next (φ := Fault) (ρ := Refusal)
      { s with result0 := c.setWidth 32, err := .none, errInfo := 0, done := true, pending := none }
    (m.csAlg = .crc8 → exec (.cscomp i) s = answers (crc8 (m.coveredBytes s.fbuf) m.csFxor)) ∧
    (m.csAlg = .passthrough → exec (.cscomp i) s = answers (s.fbuf.read m.csPos.toNat))

/-- `CSINS`: the checksum is written to `FBUF[CS_POS]` and to no other byte, and is in `RESULT0` (R164). -/
def Obligations.CsinsWritesTheChecksumByte : Prop :=
  ∀ (s : State) (i : Nat), s.phase = .operate → i < 64 → (s.msg i).en = true → MessageValid s i (s.msg i) →
    let m := s.msg i
    m.csAlg = .crc8 ∨ m.csAlg = .passthrough →
    ∃ t, exec (.csins i) s = .next t ∧
      t.fbuf.read m.csPos.toNat =
        (if m.csAlg = .crc8 then crc8 (m.coveredBytes s.fbuf) m.csFxor else s.fbuf.read m.csPos.toNat) ∧
      (∀ a, a ≠ m.csPos.toNat → t.fbuf.read a = s.fbuf.read a) ∧
      t = { s with
        fbuf := t.fbuf, result0 := (t.fbuf.read m.csPos.toNat).setWidth 32
        err := .none, errInfo := 0, done := true, pending := none }

/-- `CSVAL`: the computed byte, the received byte and the verdict, for each strategy (R162, R165). A wrong checksum is no
error. -/
def Obligations.CsvalReportsTheVerdict : Prop :=
  ∀ (s : State) (i : Nat), s.phase = .operate → i < 64 → (s.msg i).en = true → s.flen = (s.msg i).len →
    let m := s.msg i
    let answers := fun (c rx : Byte) (valid : Bool) => Host.Outcome.next (φ := Fault) (ρ := Refusal)
      { s with
        result0 := c.setWidth 32, result1 := rx.setWidth 32, csumValid := valid
        err := .none, errInfo := 0, done := true, pending := none }
    let pos := s.fbuf.read m.csPos.toNat
    let c := crc8 (m.coveredBytes s.fbuf) m.csFxor
    (m.csAlg = .crc8 → exec (.csval i) s = answers c pos (decide (c = pos))) ∧
    (m.csAlg = .passthrough → exec (.csval i) s = answers pos pos true) ∧
    (m.csAlg = .counterOnly → exec (.csval i) s = answers 0 0 true)

/-- Insert, then validate: after `CSINS i` the frame validates (R170). -/
def Obligations.InsertedChecksumValidates : Prop :=
  ∀ (s : State) (i : Nat), s.Inv → s.phase = .operate → i < 64 → (s.msg i).en = true → s.flen = (s.msg i).len →
    (s.msg i).csAlg = .crc8 ∨ (s.msg i).csAlg = .passthrough →
    ∃ t u, exec (.csins i) s = .next t ∧ exec (.csval i) t = .next u ∧ u.err = .none ∧ u.csumValid = true

/-- Bytes outside the covered bytes and `CS_POS` have no influence on what `CSVAL` answers: two states that differ only in
such bytes get the same results and the same verdict (R165, R170). -/
def Obligations.ExcludedBytesDoNotInfluenceTheVerdict : Prop :=
  ∀ (s : State) (f : Memory) (i : Nat),
    let m := s.msg i
    (∀ a, m.csStart.toNat ≤ a → (a : Int) < (m.csEnd.toNat : Int) - m.csExcl.toNat → f.read a = s.fbuf.read a) →
    f.read m.csPos.toNat = s.fbuf.read m.csPos.toNat →
    ∃ t, exec (.csval i) s = .next t ∧ exec (.csval i) { s with fbuf := f } = .next { t with fbuf := f }

/-- `CNTRD` and `CNTNXT`: the counter field, and the next counter value modulo `2^CNT_W`, in `RESULT0` (R167, R169). -/
def Obligations.CounterIsReadAndStepped : Prop :=
  ∀ (s : State) (i : Nat), s.phase = .operate → i < 64 → (s.msg i).en = true → (s.msg i).cntEn = true →
    let m := s.msg i
    (exec (.cntrd i) s = .next { s with
      result0 := BitVec.ofNat 32 (fieldGet s.fbuf m.cntStart.toNat m.cntW.toNat m.cntBe)
      err := .none, errInfo := 0, done := true, pending := none }) ∧
    (∃ t, exec (.cntnxt i) s = .next t ∧ t.result0.toNat = (s.arg0.toNat + 1) % 2 ^ m.cntW.toNat ∧
      t = { s with result0 := t.result0, err := .none, errInfo := 0, done := true, pending := none })

/-- `CNTWR`: the counter field holds `ARG0 mod 2^CNT_W` and no other frame bit changes (R168); a `CNTRD` after it gives
that value (R171). -/
def Obligations.CounterIsWrittenInPlace : Prop :=
  ∀ (s : State) (i : Nat), s.phase = .operate → i < 64 → (s.msg i).en = true → (s.msg i).cntEn = true →
    MessageValid s i (s.msg i) →
    let m := s.msg i
    ∃ t, exec (.cntwr i) s = .next t ∧
      fieldGet t.fbuf m.cntStart.toNat m.cntW.toNat m.cntBe = s.arg0.toNat % 2 ^ m.cntW.toNat ∧
      (∀ b, b ∉ fieldBits m.cntStart.toNat m.cntW.toNat m.cntBe → frameBitGet t.fbuf b = frameBitGet s.fbuf b) ∧
      t = { s with fbuf := t.fbuf, err := .none, errInfo := 0, done := true, pending := none } ∧
      ∃ u, exec (.cntrd i) t = .next u ∧ u.result0.toNat = s.arg0.toNat % 2 ^ m.cntW.toNat

/-- No command changes a byte of the frame buffer at or beyond the length of the message it names, and only `ENCODE`,
`CSINS` and `CNTWR` change the buffer at all (R32). -/
def Obligations.CommandsKeepTheFrameBeyondTheMessage : Prop :=
  ∀ (s t : State) (i : Instr), s.Inv → exec i s = .next t →
    (∀ a, (s.msg (operandIndex i)).len.toNat ≤ a → t.fbuf.read a = s.fbuf.read a) ∧
    (t.fbuf ≠ s.fbuf →
      (∃ idx clr, i = .encode idx clr) ∨ (∃ idx, i = .csins idx) ∨ (∃ idx, i = .cntwr idx))

/-! ### Rate limiter (42_limiter) -/

/-- `LSTEP`: the transition of R202 to R207 written out, what it stores, and that nothing else changes. -/
def Obligations.LimiterTickFollowsTheTransition : Prop :=
  ∀ (s : State) (c : Nat), s.Inv → s.phase = .operate → c < 2 → (s.chan c).en = true →
    let ch := s.chan c
    let d := s.arg0.toInt
    let meas := s.arg1.toInt
    let drv := s.arg2.toInt
    let last := ch.last.toInt
    let dc := min (max d (-ch.max.toInt)) ch.max.toInt
    let ov := decide ((last > 0 ∧ drv < -ch.drvAllow.toInt) ∨ (last < 0 ∧ drv > ch.drvAllow.toInt))
    let step := if |dc| < |last| then ch.deltaDown.toInt else ch.deltaUp.toInt
    let tgt := if ov then 0 else dc
    let w := if ov then ch.deltaDown.toInt + ch.drvMult.toInt * ch.drvFactor.toInt else step
    let applied := last + min (max (tgt - last) (-w)) w
    let fb := if ch.fbSel then drv else meas
    let acc := if |fb - applied| > ch.errThresh.toInt then min ((ch.errAcc.toNat : Int) + 1) (2 ^ 32 - 1) else 0
    let temp := decide (acc > (ch.errMax.toNat : Int))
    let perm := ch.perm || s.arg3.getLsbD 0
    ∃ t, exec (.lstep c) s = .next t ∧
      (t.chan c).last.toInt = applied ∧ ((t.chan c).errAcc.toNat : Int) = acc ∧
      t.chan c = { ch with last := (t.chan c).last, errAcc := (t.chan c).errAcc, temp := temp, perm := perm, ovr := ov } ∧
      (∀ c', c' ≠ c → t.chan c' = s.chan c') ∧
      t.result0.toInt = applied ∧
      t.result1.toNat = temp.toNat + 2 * perm.toNat + 4 * ov.toNat + 8 * (decide (dc ≠ d)).toNat +
        16 * (decide (applied ≠ tgt)).toNat ∧
      t = { s with
        chans := t.chans, result0 := t.result0, result1 := t.result1
        err := .none, errInfo := 0, done := true, pending := none }

/-- The bounds of a tick (R212 to R214): the step bound, the magnitude bound, and that an override only yields toward
zero. -/
def Obligations.LimiterTickKeepsItsBounds : Prop :=
  ∀ (s t : State) (c : Nat), s.Inv → s.phase = .operate → c < 2 → (s.chan c).en = true →
    exec (.lstep c) s = .next t →
    let ch := s.chan c
    let last := ch.last.toInt
    let applied := (t.chan c).last.toInt
    let widened := ch.deltaDown.toInt + ch.drvMult.toInt * ch.drvFactor.toInt
    |applied - last| ≤ max (max ch.deltaUp.toInt ch.deltaDown.toInt) widened ∧
    |applied| ≤ ch.max.toInt ∧
    ((t.chan c).ovr = true →
      |last| - |applied| = min |last| widened ∧ (applied = 0 ∨ applied.sign = last.sign))

/-- R208, R215: `PERM` is set by the vehicle's fault code and stays set through every step of the machine but an `LRST` of
that channel and block reset. -/
def Obligations.PermanentFaultIsLatched : Prop :=
  (∀ (s t : State) (c : Nat), s.phase = .operate → c < 2 → (s.chan c).en = true → exec (.lstep c) s = .next t →
    (t.chan c).perm = ((s.chan c).perm || s.arg3.getLsbD 0)) ∧
  (∀ (s t : State) (c : Nat), step s = .next t → (s.chan c).perm = true →
    (t.chan c).perm = true ∨ (s.pending = some (encode (.lrst c)) ∧ s.wait = 0) ∨
      (s.hostMoves ∧ ∃ rest, s.host = .setReset true :: rest))

/-- `LRST` clears the LimiterState of its channel and writes nothing else; `RESULT0` and `RESULT1` are kept (R211). -/
def Obligations.ChannelResetClearsTheLimiterState : Prop :=
  ∀ (s : State) (c : Nat), s.phase = .operate → c < 2 → (s.chan c).en = true →
    ∃ t, exec (.lrst c) s = .next t ∧
      t.chan c = { s.chan c with last := 0, errAcc := 0, temp := false, perm := false, ovr := false } ∧
      (∀ c', c' ≠ c → t.chan c' = s.chan c') ∧
      t = { s with chans := t.chans, err := .none, errInfo := 0, done := true, pending := none }

/-! ### Control (43_control) -/

/-- `LOCK` in CONFIG enters OPERATE if every enabled descriptor passes the checks of R232, and else fails with
`BAD_DESCRIPTOR`; nothing else is written. -/
def Obligations.LockAcceptsExactlyTheValidCatalogs : Prop :=
  ∀ s : State, s.phase = .config →
    (CatalogValid s → exec .lock s = .next { s with
      phase := .operate, err := .none, errInfo := 0, done := true, pending := none }) ∧
    (¬ CatalogValid s → ∃ info : Word, exec .lock s = .next { s with
      err := .badDescriptor, errInfo := info, done := true, pending := none })

/-- `LOCK` reports the first failing check, each as the table of R232 words it: by ascending message, then ascending code,
with the lowest failing slot, or 0xFF for a check without a slot; then the channels, with the lowest negative word (R231). -/
def Obligations.LockReportsTheFirstFailure : Prop :=
  (∀ (s : State) (i code slot : Nat), s.phase = .config → i < 64 → (s.msg i).en = true →
    (∀ i' < i, (s.msg i').en = true → MessageValid s i' (s.msg i')) →
    (∀ k < code, ∀ j, ¬ FailsCheck s i k j) → FailsCheck s i code slot →
    exec .lock s = .next { s with
      err := .badDescriptor, errInfo := BitVec.ofNat 32 (0x01000000 + 65536 * code + 256 * slot + i)
      done := true, pending := none }) ∧
  (∀ (s : State) (c w : Nat) (x : Word), s.phase = .config → c < 2 → (s.chan c).en = true →
    (∀ i < 64, (s.msg i).en = true → MessageValid s i (s.msg i)) →
    (∀ c' < c, (s.chan c').en = true → ChannelValid (s.chan c')) →
    (s.chan c).limits[w]? = some x → x.toInt < 0 → (∀ v < w, ∀ y, (s.chan c).limits[v]? = some y → 0 ≤ y.toInt) →
    exec .lock s = .next { s with
      err := .badDescriptor, errInfo := BitVec.ofNat 32 (0x02010000 + 256 * w + c), done := true, pending := none })

/-- `LOOKUP` gives the one enabled message with the bus `ARG0[7:0]` and the address `ARG1`, or fails with
`UNKNOWN_ADDRESS` (R233). -/
def Obligations.LookupFindsTheMessage : Prop :=
  ∀ s : State, s.Inv → s.phase = .operate →
    (∀ i < 64, (s.msg i).en = true → (s.msg i).bus = s.arg0.extractLsb' 0 8 → (s.msg i).addr = s.arg1 →
      exec .lookup s = .next { s with
        result0 := BitVec.ofNat 32 i, err := .none, errInfo := 0, done := true, pending := none }) ∧
    ((∀ i < 64, (s.msg i).en = true → ¬ ((s.msg i).bus = s.arg0.extractLsb' 0 8 ∧ (s.msg i).addr = s.arg1)) →
      exec .lookup s = .next { s with
        err := .unknownAddress, errInfo := 0x0000FF00, done := true, pending := none })

/-! ### Phases -/

/-- R261: reset enters CONFIG, a `LOCK` without error enters OPERATE, and no other event changes the phase. -/
def Obligations.OnlyLockAndResetChangeThePhase : Prop :=
  (∀ s : State, s.assertReset.phase = .config) ∧
  (∀ s t : State, exec .lock s = .next t → t.err = .none → s.phase = .config ∧ t.phase = .operate) ∧
  (∀ s t : State, step s = .next t → t.phase ≠ s.phase →
    (s.phase = .config ∧ t.phase = .operate ∧ s.pending = some 0x0000000F#32 ∧ s.wait = 0 ∧ t.err = .none) ∨
    (t.phase = .config ∧ s.hostMoves ∧ ∃ rest, s.host = .setReset true :: rest))

/-- In OPERATE the catalog, the channel configuration and `CTRL[3:2]` cannot change: no command and no host write changes
them (R70, R80, R260, R289). -/
def Obligations.CatalogIsFrozenInOperate : Prop :=
  ∀ s t : State, step s = .next t → s.phase = .operate → t.phase = .operate →
    t.msgs = s.msgs ∧ t.sigs = s.sigs ∧ t.absentRaw0 = s.absentRaw0 ∧ t.rne = s.rne ∧
    ∀ c w, w ≤ 8 → (t.chan c).word w = (s.chan c).word w

/-! ### The register window (20_memory) -/

/-- R70: the writes that are dropped, with `WDROP` set; a write that is in none of the three cases does not set it. -/
def Obligations.DroppedWritesSetWdrop : Prop :=
  ∀ (s : State) (off : BitVec 16) (v : Word), s.facing (.write 4 off v) → off.toNat % 4 = 0 →
    (s.droppedWhileBusy off ∨ s.droppedAsFrozen off →
      step s = .next { s.advanced with wdrop := true, reply := .written }) ∧
    (s.ctrlBitsDropped off v →
      step s = .next { s.advanced with ie := v.getLsbD 1, wdrop := true, reply := .written }) ∧
    (¬ s.droppedWhileBusy off → ¬ s.droppedAsFrozen off → ¬ s.ctrlBitsDropped off v →
      ∃ t, step s = .next t ∧ (t.wdrop = true → s.wdrop = true))

/-- R68: a reserved offset reads 0, and a write to it that R70 does not drop has no effect. A reserved bit of a register reads
0. That a reserved offset reads 0 while a command runs too is DEDUCED from R68 against R71 (log 4). -/
def Obligations.ReservedOffsetsReadZeroAndIgnoreWrites : Prop :=
  (∀ (s : State) (off : BitVec 16) (v : Word), s.Inv → off.toNat % 4 = 0 → reservedOffset off.toNat →
    (s.facing (.read 4 off) → step s = .next { s.advanced with reply := .data 0 }) ∧
    (s.facing (.write 4 off v) → s.busy = false → ¬ s.droppedAsFrozen off →
      step s = .next { s.advanced with reply := .written })) ∧
  (∀ (s : State) (x : Target), s.readTarget x &&& ~~~x.definedBits = 0)

/-- Every write that R70 does not drop, in either phase, but those of `STATUS` and `CMD`, which
`StatusRegisterLayoutAndClearing` and `CommandWriteIsAccepted` cover: the word reads back what was written
in its stored bits and keeps its other bits, every other word of the window keeps its value, and the phase and the latch
stay (R24, R30 to R45, R68, R69). -/
def Obligations.WindowWordsReadBackWhatWasWritten : Prop :=
  ∀ (s : State) (off : BitVec 16) (v : Word), s.facing (.write 4 off v) → off.toNat % 4 = 0 →
    off ≠ 0x00C → off ≠ 0x010 →
    ¬ s.droppedWhileBusy off → ¬ s.droppedAsFrozen off → ¬ s.ctrlBitsDropped off v →
    let x := target off.toNat
    ∃ t, step s = .next t ∧ t.phase = s.phase ∧ t.pending = s.pending ∧ t.reply = .written ∧
      t.readTarget x = (v &&& x.storedBits) ||| (s.readTarget x &&& ~~~x.storedBits) ∧
      ∀ off' : BitVec 16, off'.toNat % 4 = 0 → off' ≠ off →
        t.readTarget (target off'.toNat) = s.readTarget (target off'.toNat)

/-- The words of the register files and their fields, bit by bit (R33 to R46): what the host reads in each, and what a write
of one word, while no command runs, leaves in the entry; every other entry and all else stays. The descriptors and the
channels are written in CONFIG, the value file in either phase. `VFLAGS.OOR` and the LimiterState are read-only. -/
def Obligations.RegisterFileWordsHoldTheirFields : Prop :=
  (∀ (s : State) (i : Nat), i < 64 → s.msg i = .ofWords (s.wordsAt (0x2000 + 32 * i))) ∧
  (∀ (s : State) (k : Nat), k < 512 → s.sig k = .ofWords (s.wordsAt (0x4000 + 32 * k))) ∧
  (∀ (s : State) (c : Nat), c < 2 → s.chan c = .ofWords (s.wordsAt (0x8000 + 64 * c))) ∧
  (∀ (s : State) (j : Nat), j < 64 → s.slot j = .ofWords (s.wordsAt (0x1000 + 64 * j))) ∧
  (∀ (s : State) (i w : Nat) (v : Word), i < 64 → w < 8 → s.pending = none → s.phase = .config →
    s.facing (.write 4 (BitVec.ofNat 16 (0x2000 + 32 * i + 4 * w)) v) →
    ∃ t, step s = .next t ∧ t.msg i = .ofWords (Function.update (s.wordsAt (0x2000 + 32 * i)) w v) ∧
      (∀ i', i' ≠ i → t.msg i' = s.msg i') ∧ t = { s.advanced with msgs := t.msgs, reply := .written }) ∧
  (∀ (s : State) (k w : Nat) (v : Word), k < 512 → w < 8 → s.pending = none → s.phase = .config →
    s.facing (.write 4 (BitVec.ofNat 16 (0x4000 + 32 * k + 4 * w)) v) →
    ∃ t, step s = .next t ∧ t.sig k = .ofWords (Function.update (s.wordsAt (0x4000 + 32 * k)) w v) ∧
      (∀ k', k' ≠ k → t.sig k' = s.sig k') ∧ t = { s.advanced with sigs := t.sigs, reply := .written }) ∧
  (∀ (s : State) (c w : Nat) (v : Word), c < 2 → w < 16 → s.pending = none → s.phase = .config →
    s.facing (.write 4 (BitVec.ofNat 16 (0x8000 + 64 * c + 4 * w)) v) →
    ∃ t, step s = .next t ∧
      t.chan c = (if w ≤ 8 then .ofWords (Function.update (s.wordsAt (0x8000 + 64 * c)) w v) else s.chan c) ∧
      (∀ c', c' ≠ c → t.chan c' = s.chan c') ∧ t = { s.advanced with chans := t.chans, reply := .written }) ∧
  (∀ (s : State) (j w : Nat) (v : Word), j < 64 → w < 16 → s.pending = none →
    s.facing (.write 4 (BitVec.ofNat 16 (0x1000 + 64 * j + 4 * w)) v) →
    ∃ t, step s = .next t ∧
      t.slot j =
        { Slot.ofWords (Function.update (s.wordsAt (0x1000 + 64 * j)) w v) with oor := (s.slot j).oor } ∧
      (∀ j', j' ≠ j → t.slot j' = s.slot j') ∧ t = { s.advanced with vals := t.vals, reply := .written })

/-- R71: while a command runs, the reads R71 lists return their current values, `STATUS` with `BUSY = 1` and `DONE = 0`, and a
read of any other register returns a free value. That the value is `Config.busyRead` of the draw counter is the model's
choice (log 3, DESIGN CHOICE); that a reserved offset is none of those registers is DEDUCED (log 4). -/
def Obligations.BusyReadsAreCurrentOrFree : Prop :=
  ∀ (s : State) (off : BitVec 16), s.Inv → s.facing (.read 4 off) → off.toNat % 4 = 0 → s.busy = true →
    let listed := off.toNat ≤ 0x010 ∨ (0x2000 ≤ off.toNat ∧ off.toNat ≤ 0x27FF) ∨
      (0x4000 ≤ off.toNat ∧ off.toNat ≤ 0x7FFF) ∨ (0x8000 ≤ off.toNat ∧ off.toNat ≤ 0x8020) ∨
      (0x8040 ≤ off.toNat ∧ off.toNat ≤ 0x8060)
    (listed → step s = .next { s.advanced with reply := .data (s.readTarget (target off.toNat)) }) ∧
    (¬ listed → ¬ reservedOffset off.toNat →
      step s = .next { s.advanced with reply := .data (Config.busyRead s.draws), draws := s.draws + 1 }) ∧
    s.statusWord.getLsbD 0 = true ∧ s.statusWord.getLsbD 1 = false

/-- A read while no command runs returns the register's current value and has no side effect (R73, R81). The global registers
stand, in every state, at the offsets that R74 gives them (R22 to R31); the bits of `STATUS` are in
`StatusRegisterLayoutAndClearing`. -/
def Obligations.IdleReadsReturnTheRegister : Prop :=
  (∀ (s : State) (off : BitVec 16), s.facing (.read 4 off) → off.toNat % 4 = 0 → s.pending = none →
    step s = .next { s.advanced with reply := .data (s.readTarget (target off.toNat)) }) ∧
  (∀ s : State,
    let r := fun off => s.readTarget (target off)
    r 0x000 = 0x00400240#32 ∧ r 0x004 = 0x00400200#32 ∧
    (r 0x008).toNat = 2 * s.ie.toNat + 4 * s.absentRaw0.toNat + 8 * s.rne.toNat ∧
    r 0x00C = s.statusWord ∧ r 0x010 = s.cmd ∧ r 0x014 = s.errInfo ∧ r 0x018 = s.result0 ∧ r 0x01C = s.result1 ∧
    (r 0x020).toNat = s.flen.toNat ∧
    r 0x024 = s.arg0 ∧ r 0x028 = s.arg1 ∧ r 0x02C = s.arg2 ∧ r 0x030 = s.arg3)

/-- The layout of `STATUS` with the numbers of the error codes, and what a write of it does (R25, R251). -/
def Obligations.StatusRegisterLayoutAndClearing : Prop :=
  (∀ s : State, s.statusWord.getLsbD 0 = s.busy ∧ s.statusWord.getLsbD 1 = s.done ∧ s.statusWord.getLsbD 2 = s.oor ∧
    s.statusWord.getLsbD 3 = s.csumValid ∧ s.statusWord.getLsbD 4 = decide (s.phase = .operate) ∧
    s.statusWord.getLsbD 5 = s.wdrop ∧ s.statusWord.getLsbD 6 = false ∧ s.statusWord.getLsbD 7 = false ∧
    s.statusWord >>> 16 = 0 ∧
    (s.statusWord.extractLsb' 8 8).toNat =
      match s.err with
      | .none => 0 | .illegalCmd => 1 | .notLocked => 2 | .alreadyLocked => 3 | .badIndex => 4 | .badDescriptor => 5
      | .lengthMismatch => 6 | .noChecksum => 7 | .noCounter => 8 | .unknownAddress => 9 | .badValue => 10) ∧
  (∀ (s : State) (v : Word), s.facing (.write 4 0x00C v) →
    step s = .next { s.advanced with
      done := s.done && !v.getLsbD 1, wdrop := s.wdrop && !v.getLsbD 5, reply := .written })

/-- A `CMD` write while no command runs stores and latches the word, with `BUSY = 1` and `DONE = 0` (R26, R27). The delay it
gets is free; the model's own fields say which (log 2). -/
def Obligations.CommandWriteIsAccepted : Prop :=
  ∀ (s : State) (v : Word), s.facing (.write 4 0x010 v) → s.pending = none →
    ∃ t, step s = .next t ∧ t.busy = true ∧
      t = { s.advanced with
        cmd := v, pending := some v, done := false, reply := .written
        wait := t.wait, latencies := t.latencies, draws := t.draws }

/-- R67, R256: an access of the wrong width or alignment is the fault `BusError` with its offset; every other access is
served. -/
def Obligations.MisshapenAccessesAreBusErrors : Prop :=
  (∀ (s : State) (width : Nat) (off : BitVec 16) (v : Word), (width ≠ 4 ∨ off.toNat % 4 ≠ 0) →
    (s.facing (.read width off) → step s = .fault (.busError off)) ∧
    (s.facing (.write width off v) → step s = .fault (.busError off))) ∧
  (∀ (s : State) (off : BitVec 16) (v : Word), off.toNat % 4 = 0 →
    (s.facing (.read 4 off) → ∃ t, step s = .next t) ∧ (s.facing (.write 4 off v) → ∃ t, step s = .next t))

/-- R257: `IRQ = CTRL.IE AND STATUS.DONE`; its one source is completion, with or without error; a write of 1 to `DONE`, the
next accepted command and `IE = 0` each lower it, the last without clearing `DONE`. -/
def Obligations.InterruptFollowsDoneAndEnable : Prop :=
  (∀ s : State, s.irq = (s.ie && s.done)) ∧
  (∀ (s t : State) (w : Word), s.pending = some w → s.wait = 0 → step s = .next t → t.irq = s.ie) ∧
  (∀ s t : State, step s = .next t → s.done = false → t.done = true → s.busy = true ∧ t.busy = false) ∧
  (∀ (s : State) (v : Word), s.facing (.write 4 0x00C v) → v.getLsbD 1 = true →
    ∃ t, step s = .next t ∧ t.irq = false ∧ t.done = false) ∧
  (∀ (s : State) (v : Word), s.facing (.write 4 0x010 v) → s.pending = none →
    ∃ t, step s = .next t ∧ t.irq = false ∧ t.done = false) ∧
  (∀ (s : State) (v : Word), s.facing (.write 4 0x008 v) → v.getLsbD 1 = false →
    ∃ t, step s = .next t ∧ t.irq = false ∧ t.done = s.done)

/-- The window as R60 places it: the host address `BASE + off` is offset `off`, and an address outside the 64 KiB is none.
`BASE` is a parameter, 64 KiB aligned. -/
def Obligations.WindowIsTheAlignedBlockAtBase : Prop :=
  65536 ∣ Config.base ∧ (∀ off : BitVec 16, windowOffset (Config.base + off.toNat) = some off) ∧
  (∀ addr, addr < Config.base ∨ Config.base + 65536 ≤ addr → windowOffset addr = none)

/-! ### Reset and the invariant -/

/-- R50: what every word of the window reads after reset, the phase, and the empty latch. -/
def Obligations.ResetLeavesTheValuesOfTheTable : Prop :=
  (∀ off : BitVec 16, off.toNat % 4 = 0 → State.reset.readTarget (target off.toNat) =
    if off = 0x000 then 0x00400240#32 else if off = 0x004 then 0x00400200#32
    else if 0x1000 ≤ off.toNat ∧ off.toNat < 0x2000 ∧ off.toNat % 64 = 0x10 then 1#32 else 0#32) ∧
  State.reset.phase = .config ∧ State.reset.pending = none

/-- Asserting reset abandons a running command and brings the block to its reset state; the outside world's own fields stay.
While reset is asserted an access changes nothing of the block (R280; the reply such an access gets is the model's, log 7). -/
def Obligations.ResetInputRestoresTheResetState : Prop :=
  (∀ (s : State) (rest : List HostEvent), s.hostMoves → s.host = .setReset true :: rest →
    step s = .next { State.reset with
      latencies := s.latencies, host := rest, reply := s.reply, draws := s.draws, resetLine := true }) ∧
  (∀ (s : State) (e : HostEvent) (rest : List HostEvent), s.Inv → s.resetLine = true → s.host = e :: rest →
    ∃ t, step s = .next t ∧
      t = { s with host := rest, reply := t.reply, resetLine := t.resetLine } ∧
      (t.resetLine = false ↔ e = .setReset false) ∧ t.irq = false)

/-- The invariant holds at reset. -/
def Obligations.InvariantHoldsAtReset : Prop := State.reset.Inv

/-- Every step keeps the invariant: canonical memory and tables, the latch, a locked catalog that `LOCK` accepts, the
limiter's bounds (R213), the reset state while reset is asserted. -/
def Obligations.EveryStepKeepsTheInvariant : Prop :=
  ∀ s t : State, s.Inv → step s = .next t → t.Inv
end

