-- ==== Sys2Proof/Laws/Encoding.lean ====
section
/-! SUPPORT. The fields of a command word (30_encoding R90): reading them off an encoded word, and a word from its fields. -/

namespace Sys2Proof

/-- The fields of the word that the encoder builds. -/
theorem commandWord_fields (op : Byte) (idx : Nat) (clr : Bool) :
    opField (commandWord op idx clr) = op ∧ idxField (commandWord op idx clr) = BitVec.ofNat 8 idx ∧
      clrField (commandWord op idx clr) = clr ∧ reservedField (commandWord op idx clr) = 0 := by
  unfold opField idxField clrField reservedField commandWord
  refine ⟨?_, ?_, ?_, ?_⟩
  · apply BitVec.eq_of_getLsbD_eq
    intro i hi
    simp [hi, show i < 32 by omega, show i < 16 by omega]
  · apply BitVec.eq_of_getLsbD_eq
    intro i hi
    simp [hi, show 8 + i < 16 by omega, show 8 + i < 32 by omega]
  · simp
  · apply BitVec.eq_of_getLsbD_eq
    intro i hi
    simp [hi]
    exact ⟨⟨fun _ => BitVec.getLsbD_of_ge _ _ (by omega), fun _ _ _ => BitVec.getLsbD_of_ge _ _ (by omega)⟩,
      fun _ _ _ _ => by omega⟩

/-- A word whose reserved bits are 0 is the word of its own fields. -/
theorem commandWord_of_fields (w : Word) (h : reservedField w = 0) :
    commandWord (opField w) (idxField w).toNat (clrField w) = w := by
  unfold opField idxField clrField reservedField commandWord at *
  apply BitVec.eq_of_getLsbD_eq
  intro i hi
  have high : 17 ≤ i → w.getLsbD i = false := by
    intro hge
    have := congrArg (·.getLsbD (i - 17)) h
    simpa [show i - 17 < 15 by omega, show 17 + (i - 17) = i by omega] using this
  rw [BitVec.ofNat_toNat]
  simp only [BitVec.getLsbD_or, BitVec.getLsbD_shiftLeft, BitVec.getLsbD_setWidth, BitVec.getLsbD_extractLsb',
    BitVec.getLsbD_ofBool, BitVec.setWidth_eq]
  by_cases h1 : i < 8
  · simp [h1, hi, show i < 16 by omega]
  · by_cases h2 : i < 16
    · simp [h1, h2, hi, show i - 8 < 32 by omega, show i - 8 < 8 by omega, show 8 + (i - 8) = i by omega]
    · by_cases h3 : i = 16
      · subst h3; simp
      · rw [high (by omega)]
        simp [h1, h2, show ¬ (i - 8 < 8) by omega, show ¬ (i - 16 = 0) by omega]

end Sys2Proof
end

