-- ==== Sys2Proof/Laws/Tables.lean ====
section
/-! SUPPORT. The laws of a table in canonical form: read after write, writes elsewhere, and that writing keeps the form. They
hold for the frame buffer and for every register file. -/

namespace Sys2Proof.Machine

variable {α : Type}

theorem tableRead_tableInsert_same (d : α) (t : List (Nat × α)) (k : Nat) (x : α) :
    tableRead d (tableInsert t k x) k = x := by
  induction t with
  | nil => simp [tableInsert, tableRead]
  | cons e t ih =>
    obtain ⟨j, y⟩ := e
    by_cases h1 : k < j
    · simp [tableInsert, tableRead, h1]
    · by_cases h2 : j = k <;> simp [tableInsert, tableRead, h1, h2, ih]

theorem tableRead_tableInsert_other (d : α) (t : List (Nat × α)) (k j : Nat) (x : α) (h : j ≠ k) :
    tableRead d (tableInsert t k x) j = tableRead d t j := by
  induction t with
  | nil => simp [tableInsert, tableRead, Ne.symm h]
  | cons e t ih =>
    obtain ⟨i, y⟩ := e
    by_cases h1 : k < i
    · simp [tableInsert, tableRead, h1, Ne.symm h]
    · by_cases h2 : i = k
      · subst h2; simp [tableInsert, tableRead, Ne.symm h]
      · simp [tableInsert, tableRead, h1, h2, ih]

theorem tableRead_filter_same (d : α) (t : List (Nat × α)) (k : Nat) :
    tableRead d (t.filter fun e => decide (e.1 ≠ k)) k = d := by
  induction t with
  | nil => rfl
  | cons e t ih => by_cases h : e.1 = k <;> simp_all [tableRead]

theorem tableRead_filter_other (d : α) (t : List (Nat × α)) (k j : Nat) (h : j ≠ k) :
    tableRead d (t.filter fun e => decide (e.1 ≠ k)) j = tableRead d t j := by
  induction t with
  | nil => rfl
  | cons e t ih =>
    by_cases h1 : e.1 = k
    · simp_all [tableRead, Ne.symm h]
    · simp_all [tableRead]

variable [DecidableEq α]

theorem tableRead_tableWrite_same (d : α) (t : List (Nat × α)) (k : Nat) (x : α) :
    tableRead d (tableWrite d t k x) k = x := by
  unfold tableWrite
  split
  · rw [tableRead_filter_same]; exact Eq.symm ‹_›
  · exact tableRead_tableInsert_same ..

theorem tableRead_tableWrite_other (d : α) (t : List (Nat × α)) (k j : Nat) (x : α) (h : j ≠ k) :
    tableRead d (tableWrite d t k x) j = tableRead d t j := by
  unfold tableWrite
  split
  · exact tableRead_filter_other _ _ _ _ h
  · exact tableRead_tableInsert_other _ _ _ _ _ h

/-- Read after write: the entry written, if the index is one of the table's, and the old entry everywhere else. -/
theorem tableRead_tableSet (d : α) (n : Nat) (t : List (Nat × α)) (k j : Nat) (x : α) :
    tableRead d (tableSet d n t k x) j = if j = k ∧ k < n then x else tableRead d t j := by
  unfold tableSet
  by_cases hk : k < n
  · by_cases hj : j = k
    · subst hj; simp [hk, tableRead_tableWrite_same]
    · simp [hk, hj, tableRead_tableWrite_other]
  · simp [hk]

theorem tableWfFrom_mono (d : α) (n : Nat) {lo lo' : Nat} (t : List (Nat × α)) (h : lo' ≤ lo)
    (w : tableWfFrom d n lo t = true) : tableWfFrom d n lo' t = true := by
  cases t with
  | nil => rfl
  | cons e t =>
    simp only [tableWfFrom, Bool.and_eq_true, decide_eq_true_eq] at *
    exact ⟨⟨⟨by omega, w.1.1.2⟩, w.1.2⟩, w.2⟩

theorem tableWfFrom_filter (d : α) (n lo : Nat) (t : List (Nat × α)) (p : Nat × α → Bool)
    (w : tableWfFrom d n lo t = true) : tableWfFrom d n lo (t.filter p) = true := by
  induction t generalizing lo with
  | nil => rfl
  | cons e t ih =>
    obtain ⟨j, y⟩ := e
    simp only [tableWfFrom, Bool.and_eq_true, decide_eq_true_eq] at w
    have key := ih (j + 1) w.2
    by_cases hp : p (j, y) = true
    · simp only [List.filter_cons, hp, if_true, tableWfFrom, Bool.and_eq_true, decide_eq_true_eq]
      exact ⟨w.1, key⟩
    · simp only [List.filter_cons, hp]
      exact tableWfFrom_mono d n _ (by omega) key

theorem tableWfFrom_tableInsert (d : α) (n lo : Nat) (t : List (Nat × α)) (k : Nat) (x : α) (hl : lo ≤ k) (hk : k < n)
    (hx : x ≠ d) (w : tableWfFrom d n lo t = true) : tableWfFrom d n lo (tableInsert t k x) = true := by
  induction t generalizing lo with
  | nil => simp [tableInsert, tableWfFrom, hl, hk, hx]
  | cons e t ih =>
    obtain ⟨j, y⟩ := e
    simp only [tableWfFrom, Bool.and_eq_true, decide_eq_true_eq] at w
    obtain ⟨⟨⟨h1, h2⟩, h3⟩, h4⟩ := w
    by_cases c1 : k < j
    · simp only [tableInsert, c1, if_true, tableWfFrom, Bool.and_eq_true, decide_eq_true_eq]
      exact ⟨⟨⟨hl, hk⟩, hx⟩, ⟨⟨by omega, h2⟩, h3⟩, h4⟩
    · by_cases c2 : j = k
      · subst c2; simp [tableInsert, tableWfFrom, hl, hk, hx, h4]
      · simp only [tableInsert, c1, c2, if_false, tableWfFrom, Bool.and_eq_true, decide_eq_true_eq]
        exact ⟨⟨⟨h1, h2⟩, h3⟩, ih (j + 1) (by omega) h4⟩

/-- Setting an entry keeps the canonical form. -/
theorem tableSet_wf (d : α) (n : Nat) (t : List (Nat × α)) (k : Nat) (x : α) (w : tableWf d n t = true) :
    tableWf d n (tableSet d n t k x) = true := by
  unfold tableSet tableWrite tableWf at *
  split
  · split
    · exact tableWfFrom_filter _ _ _ _ _ w
    · exact tableWfFrom_tableInsert _ _ _ _ _ _ (Nat.zero_le _) ‹_› ‹_› w
  · exact w

/-- An entry below the first listed index is the reset entry. -/
theorem tableRead_below (d : α) (n lo : Nat) (t : List (Nat × α)) (k : Nat) (w : tableWfFrom d n lo t = true) (h : k < lo) :
    tableRead d t k = d := by
  induction t generalizing lo with
  | nil => rfl
  | cons e t ih =>
    obtain ⟨j, y⟩ := e
    simp only [tableWfFrom, Bool.and_eq_true, decide_eq_true_eq] at w
    rw [tableRead, if_neg (by omega)]
    exact ih (j + 1) w.2 (by omega)

theorem tableRead_beyond (d : α) (n : Nat) (t : List (Nat × α)) (k : Nat) (w : tableWf d n t = true) (h : n ≤ k) :
    tableRead d t k = d := by
  unfold tableWf at w
  generalize (0 : Nat) = lo at w
  induction t generalizing lo with
  | nil => rfl
  | cons e t ih =>
    obtain ⟨j, y⟩ := e
    simp only [tableWfFrom, Bool.and_eq_true, decide_eq_true_eq] at w
    rw [tableRead, if_neg (by omega)]
    exact ih (j + 1) w.2

theorem tableWfFrom_ext (d : α) (n lo : Nat) (t u : List (Nat × α)) (wt : tableWfFrom d n lo t = true)
    (wu : tableWfFrom d n lo u = true) (h : ∀ k, tableRead d t k = tableRead d u k) : t = u := by
  induction t generalizing lo u with
  | nil =>
    cases u with
    | nil => rfl
    | cons e u =>
      obtain ⟨j, y⟩ := e
      have := h j
      simp_all [tableRead, tableWfFrom]
  | cons e t ih =>
    obtain ⟨j, y⟩ := e
    cases u with
    | nil => have := h j; simp_all [tableRead, tableWfFrom]
    | cons e' u =>
      obtain ⟨j', y'⟩ := e'
      simp only [tableWfFrom, Bool.and_eq_true, decide_eq_true_eq] at wt wu
      have hjj : j = j' := by
        rcases Nat.lt_trichotomy j j' with hlt | heq | hgt
        · have hj := h j
          rw [tableRead, if_pos rfl, tableRead, if_neg (by omega), tableRead_below d n _ u j wu.2 (by omega)] at hj
          exact absurd hj wt.1.2
        · exact heq
        · have hj := h j'
          rw [tableRead, if_neg (by omega), tableRead, if_pos rfl, tableRead_below d n _ t j' wt.2 (by omega)] at hj
          exact absurd hj.symm wu.1.2
      subst hjj
      have hy : y = y' := by have := h j; simpa [tableRead] using this
      subst hy
      have rest : t = u := ih (j + 1) u wt.2 wu.2 fun k => by
        by_cases hk : j = k
        · subst hk
          rw [tableRead_below d n _ t j wt.2 (by omega), tableRead_below d n _ u j wu.2 (by omega)]
        · have := h k
          simpa [tableRead, hk] using this
      rw [rest]

/-- Equal tables are equal lists: two canonical tables that read alike are the same data. -/
theorem tableWf_ext (d : α) (n : Nat) (t u : List (Nat × α)) (wt : tableWf d n t = true) (wu : tableWf d n u = true)
    (h : ∀ k, tableRead d t k = tableRead d u k) : t = u :=
  tableWfFrom_ext d n 0 t u wt wu h

/-- Setting an entry to what it is changes nothing. -/
theorem tableSet_self (d : α) (n : Nat) (t : List (Nat × α)) (k : Nat) (w : tableWf d n t = true) :
    tableSet d n t k (tableRead d t k) = t := by
  refine tableWf_ext d n _ _ (tableSet_wf d n t k _ w) w fun j => ?_
  rw [tableRead_tableSet]
  split
  · rename_i h
    rw [h.1]
  · rfl

end Sys2Proof.Machine
end

