-- ==== Sys2Proof/Laws/Memory.lean ====
section
/-! SUPPORT. The laws of the frame buffer: bytes, bits, and that every operation keeps the canonical form. -/

namespace Sys2Proof.Machine

/-- Read after write of one byte. -/
theorem Memory.read_write (m : Memory) (a b : Nat) (x : Byte) :
    Memory.read (Memory.write m a x) b = if b = a ∧ a < 64 then x else Memory.read m b := by
  unfold Memory.read Memory.write
  exact tableRead_tableSet ..

theorem Memory.write_wf (m : Memory) (a : Nat) (x : Byte) (w : Memory.wf m = true) : Memory.wf (Memory.write m a x) = true :=
  tableSet_wf _ _ _ _ _ w

theorem Memory.wf_empty : Memory.wf [] = true := rfl

/-- The frame buffer after reset is in canonical form. -/
theorem State.reset_memory_wf : Memory.wf State.reset.fbuf = true := rfl

/-- A fold of operations that keep the form keeps it. -/
theorem Memory.foldl_wf {β : Type} (f : Memory → β → Memory) (hf : ∀ m b, Memory.wf m = true → Memory.wf (f m b) = true)
    (l : List β) (m : Memory) (w : Memory.wf m = true) : Memory.wf (l.foldl f m) = true := by
  induction l generalizing m with
  | nil => exact w
  | cons b l ih => exact ih _ (hf _ _ w)

theorem Memory.clear_wf (m : Memory) (n : Nat) (w : Memory.wf m = true) : Memory.wf (m.clear n) = true :=
  Memory.foldl_wf _ (fun m b w => Memory.write_wf m b 0 w) _ _ w

theorem frameBitSet_wf (m : Memory) (b : Nat) (x : Bool) (w : Memory.wf m = true) : Memory.wf (frameBitSet m b x) = true :=
  Memory.write_wf _ _ _ w

theorem fieldSet_wf (m : Memory) (s len : Nat) (be : Bool) (u : Nat) (w : Memory.wf m = true) :
    Memory.wf (fieldSet m s len be u) = true :=
  Memory.foldl_wf _ (fun m k w => frameBitSet_wf m (bitpos s len be k) (u.testBit k) w) _ _ w

theorem fbufSetWord_wf (m : Memory) (w : Nat) (v : Word) (h : Memory.wf m = true) : Memory.wf (fbufSetWord m w v) = true := by
  unfold fbufSetWord
  exact Memory.write_wf _ _ _ (Memory.write_wf _ _ _ (Memory.write_wf _ _ _ (Memory.write_wf _ _ _ h)))

/-- Equal frame buffers are equal lists. -/
theorem Memory.ext (m n : Memory) (hm : Memory.wf m = true) (hn : Memory.wf n = true)
    (h : ∀ a, Memory.read m a = Memory.read n a) : m = n :=
  tableWf_ext _ _ m n hm hn h

theorem Memory.read_beyond (m : Memory) (a : Nat) (w : Memory.wf m = true) (h : 64 ≤ a) : Memory.read m a = 0 :=
  tableRead_beyond _ _ m a w h

/-- Bit `i` of a vector with bit `j` set to `x`. -/
theorem getLsbD_setBit {n : Nat} (v : BitVec n) (i j : Nat) (x : Bool) :
    (setBit v j x).getLsbD i = if i = j ∧ j < n then x else v.getLsbD i := by
  unfold setBit
  by_cases hi : i < n
  · by_cases hij : i = j
    · subst hij; cases x <;> simp [hi]
    · cases x
      · rcases Nat.lt_or_gt_of_ne hij with h | h
        · simp [hi, hij, h]
        · simp [hi, hij, show ¬ i < j by omega]; intro; omega
      · rcases Nat.lt_or_gt_of_ne hij with h | h
        · simp [hi, hij, h]
        · simp [hi, hij, show ¬ i < j by omega]; omega
  · rw [BitVec.getLsbD_of_ge _ _ (by omega), BitVec.getLsbD_of_ge _ _ (by omega)]
    split
    · omega
    · rfl

/-- Reading a frame bit after setting one (20_memory R61): only that bit changes. -/
theorem frameBitGet_frameBitSet (m : Memory) (b c : Nat) (x : Bool) :
    frameBitGet (frameBitSet m b x) c = if c = b ∧ b < 512 then x else frameBitGet m c := by
  unfold frameBitGet frameBitSet
  rw [Memory.read_write]
  by_cases h8 : c / 8 = b / 8
  · by_cases hb : b / 8 < 64
    · simp only [h8, hb, and_self, if_true, getLsbD_setBit]
      by_cases hc : c % 8 = b % 8
      · have : c = b := by omega
        subst this; simp [show c < 512 by omega, Nat.mod_lt]
      · have : c ≠ b := by intro h; subst h; exact hc rfl
        simp [hc, this]
    · simp [hb, show ¬ b < 512 by omega, h8]
  · have : c ≠ b := by intro h; subst h; exact h8 rfl
    simp [h8, this]

/-- A byte is its eight frame bits. -/
theorem Memory.read_ext (m n : Memory) (a : Nat) (h : ∀ i < 8, frameBitGet m (8 * a + i) = frameBitGet n (8 * a + i)) :
    Memory.read m a = Memory.read n a := by
  apply BitVec.eq_of_getLsbD_eq
  intro i hi
  have := h i hi
  unfold frameBitGet at this
  rwa [show (8 * a + i) / 8 = a by omega, show (8 * a + i) % 8 = i by omega] at this

theorem frameBitGet_write (m : Memory) (a : Nat) (x : Byte) (c : Nat) :
    frameBitGet (Memory.write m a x) c = if c / 8 = a ∧ a < 64 then x.getLsbD (c % 8) else frameBitGet m c := by
  unfold frameBitGet
  rw [Memory.read_write]
  split <;> simp_all

end Sys2Proof.Machine
end

