-- ==== Sys2Proof/Laws/Fields.lean ====
section
/-! SUPPORT. The laws of fields in the frame (20_memory R61 to R64): where their bits are, and what reading and writing one
does to every bit. -/

namespace Sys2Proof.Machine

theorem inByteFlip_inByteFlip (b : Nat) : inByteFlip (inByteFlip b) = b := by unfold inByteFlip; omega

theorem inByteFlip_inj {a b : Nat} (h : inByteFlip a = inByteFlip b) : a = b := by
  rw [← inByteFlip_inByteFlip a, h, inByteFlip_inByteFlip]

/-- Different raw bits are at different frame bits. -/
theorem bitpos_inj {s len : Nat} {be : Bool} {j k : Nat} (hj : j < len) (hk : k < len)
    (h : bitpos s len be j = bitpos s len be k) : j = k := by
  cases be
  · simpa [bitpos] using h
  · have := inByteFlip_inj (by simpa [bitpos] using h)
    omega

/-- The bits of a field within a message are bits of the message. -/
theorem bitpos_lt {s len : Nat} {be : Bool} {bytes k : Nat} (h : fieldWithin s len be bytes = true) (hk : k < len) :
    bitpos s len be k < 8 * bytes := by
  cases be
  · simp [fieldWithin] at h
    simp [bitpos]
    omega
  · simp only [fieldWithin, if_true, decide_eq_true_eq] at h
    simp only [bitpos, if_true]
    unfold inByteFlip at *
    omega

theorem fieldWithin_mono {s len : Nat} {be : Bool} {m n : Nat} (h : fieldWithin s len be m = true) (hmn : m ≤ n) :
    fieldWithin s len be n = true := by
  cases be <;> simp [fieldWithin] at * <;> omega

theorem mem_fieldBits {s len : Nat} {be : Bool} {b : Nat} :
    b ∈ fieldBits s len be ↔ ∃ k < len, bitpos s len be k = b := by
  simp [fieldBits]

/-- Setting bits leaves every other bit alone. -/
theorem frameBitGet_foldl_other (pos : Nat → Nat) (v : Nat → Bool) (n : Nat) (m : Memory) (b : Nat)
    (h : ∀ k < n, pos k ≠ b) :
    frameBitGet ((List.range n).foldl (fun m k => frameBitSet m (pos k) (v k)) m) b = frameBitGet m b := by
  induction n with
  | zero => rfl
  | succ n ih =>
    rw [List.range_succ, List.foldl_append]
    simp only [List.foldl_cons, List.foldl_nil, frameBitGet_frameBitSet]
    rw [if_neg (fun hh => h n (by omega) hh.1.symm), ih (fun k hk => h k (by omega))]

/-- Setting different bits of the buffer sets each. -/
theorem frameBitGet_foldl_same (pos : Nat → Nat) (v : Nat → Bool) (n : Nat) (m : Memory)
    (hi : ∀ j < n, ∀ k < n, pos j = pos k → j = k) (hl : ∀ k < n, pos k < 512) (k : Nat) (hk : k < n) :
    frameBitGet ((List.range n).foldl (fun m k => frameBitSet m (pos k) (v k)) m) (pos k) = v k := by
  induction n with
  | zero => omega
  | succ n ih =>
    rw [List.range_succ, List.foldl_append]
    simp only [List.foldl_cons, List.foldl_nil, frameBitGet_frameBitSet]
    by_cases hkn : k = n
    · subst hkn; simp [hl k hk]
    · rw [if_neg fun e => hkn (hi k hk n (by omega) e.1)]
      exact ih (fun a ha b hb => hi a (by omega) b (by omega)) (fun a ha => hl a (by omega)) (by omega)

/-- Writing a field leaves every bit outside it alone. -/
theorem frameBitGet_fieldSet_other (m : Memory) (s len : Nat) (be : Bool) (u b : Nat) (h : b ∉ fieldBits s len be) :
    frameBitGet (fieldSet m s len be u) b = frameBitGet m b :=
  frameBitGet_foldl_other (bitpos s len be) u.testBit len m b fun k hk e => h (mem_fieldBits.2 ⟨k, hk, e⟩)

/-- Writing a field puts raw bit `k` at its frame bit. -/
theorem frameBitGet_fieldSet_same (m : Memory) (s len : Nat) (be : Bool) (u k : Nat)
    (hw : fieldWithin s len be 64 = true) (hk : k < len) :
    frameBitGet (fieldSet m s len be u) (bitpos s len be k) = u.testBit k :=
  frameBitGet_foldl_same (bitpos s len be) u.testBit len m (fun _ ha _ hb => bitpos_inj ha hb)
    (fun _ h => bitpos_lt hw h) k hk

/-- A sum of bits, bit by bit, and its bound. -/
theorem sum_bits (v : Nat → Bool) (n k : Nat) :
    ((List.range n).map fun k => (v k).toNat * 2 ^ k).sum.testBit k = (decide (k < n) && v k) ∧
      ((List.range n).map fun k => (v k).toNat * 2 ^ k).sum < 2 ^ n := by
  induction n with
  | zero => simp
  | succ n ih =>
    rw [List.range_succ, List.map_append, List.sum_append]
    generalize ((List.range n).map fun k => (v k).toNat * 2 ^ k).sum = S at ih
    simp only [List.map_cons, List.map_nil, List.sum_cons, List.sum_nil, Nat.add_zero]
    have hlt := ih.2
    constructor
    · rw [Nat.add_comm, Nat.mul_comm, Nat.testBit_two_pow_mul_add _ hlt]
      by_cases hkn : k < n
      · simp [hkn, ih.1, show k < n + 1 by omega]
      · rw [if_neg hkn]
        rcases Nat.lt_or_eq_of_le (Nat.le_of_not_lt hkn) with h | h
        · have : ¬ k < n + 1 := by omega
          simp only [this, decide_false, Bool.false_and]
          cases v n <;> simp [Nat.testBit_eq_false_of_lt, show 1 < 2 ^ (k - n) from Nat.one_lt_two_pow (by omega)]
        · subst h; cases v n <;> simp
    · rw [Nat.pow_succ]
      cases v n <;> simp <;> omega

/-- Bit `k` of a field value is its frame bit. -/
theorem testBit_fieldGet (m : Memory) (s len : Nat) (be : Bool) (k : Nat) :
    (fieldGet m s len be).testBit k = (decide (k < len) && frameBitGet m (bitpos s len be k)) :=
  (sum_bits (fun k => frameBitGet m (bitpos s len be k)) len k).1

theorem fieldGet_lt (m : Memory) (s len : Nat) (be : Bool) : fieldGet m s len be < 2 ^ len :=
  (sum_bits (fun k => frameBitGet m (bitpos s len be k)) len 0).2

/-- A field's value depends on its own bits only. -/
theorem fieldGet_congr {m n : Memory} {s len : Nat} {be : Bool}
    (h : ∀ b ∈ fieldBits s len be, frameBitGet m b = frameBitGet n b) : fieldGet m s len be = fieldGet n s len be := by
  apply Nat.eq_of_testBit_eq
  intro k
  rw [testBit_fieldGet, testBit_fieldGet]
  by_cases hk : k < len
  · rw [h _ (mem_fieldBits.2 ⟨k, hk, rfl⟩)]
  · simp [hk]

/-- Clearing the first bytes of the buffer. -/
theorem Memory.read_clear (m : Memory) (n a : Nat) :
    Memory.read (m.clear n) a = if a < n ∧ a < 64 then 0 else Memory.read m a := by
  unfold Memory.clear
  induction n with
  | zero => simp
  | succ n ih =>
    rw [List.range_succ, List.foldl_append]
    simp only [List.foldl_cons, List.foldl_nil, Memory.read_write, ih]
    by_cases h : a = n
    · subst h
      by_cases h2 : a < 64 <;> simp [h2]
    · by_cases h2 : a < n
      · simp [h, h2, show a < n + 1 by omega]
      · simp [h, h2, show ¬ a < n + 1 by omega]

end Sys2Proof.Machine
end

