-- ==== Sys2Proof/Laws/State.lean ====
section
/-! SUPPORT. One lemma per field per named update of the state, true by unfolding, so that no later proof unfolds a record
update. -/

namespace Sys2Proof.Machine

/-! ### complete -/

@[simp] theorem State.complete_ie (s : State) : (s.complete).ie = s.ie := rfl
@[simp] theorem State.complete_absentRaw0 (s : State) : (s.complete).absentRaw0 = s.absentRaw0 := rfl
@[simp] theorem State.complete_rne (s : State) : (s.complete).rne = s.rne := rfl
@[simp] theorem State.complete_done (s : State) : (s.complete).done = true := rfl
@[simp] theorem State.complete_oor (s : State) : (s.complete).oor = s.oor := rfl
@[simp] theorem State.complete_csumValid (s : State) : (s.complete).csumValid = s.csumValid := rfl
@[simp] theorem State.complete_wdrop (s : State) : (s.complete).wdrop = s.wdrop := rfl
@[simp] theorem State.complete_err (s : State) : (s.complete).err = .none := rfl
@[simp] theorem State.complete_cmd (s : State) : (s.complete).cmd = s.cmd := rfl
@[simp] theorem State.complete_errInfo (s : State) : (s.complete).errInfo = 0 := rfl
@[simp] theorem State.complete_result0 (s : State) : (s.complete).result0 = s.result0 := rfl
@[simp] theorem State.complete_result1 (s : State) : (s.complete).result1 = s.result1 := rfl
@[simp] theorem State.complete_flen (s : State) : (s.complete).flen = s.flen := rfl
@[simp] theorem State.complete_arg0 (s : State) : (s.complete).arg0 = s.arg0 := rfl
@[simp] theorem State.complete_arg1 (s : State) : (s.complete).arg1 = s.arg1 := rfl
@[simp] theorem State.complete_arg2 (s : State) : (s.complete).arg2 = s.arg2 := rfl
@[simp] theorem State.complete_arg3 (s : State) : (s.complete).arg3 = s.arg3 := rfl
@[simp] theorem State.complete_fbuf (s : State) : (s.complete).fbuf = s.fbuf := rfl
@[simp] theorem State.complete_vals (s : State) : (s.complete).vals = s.vals := rfl
@[simp] theorem State.complete_msgs (s : State) : (s.complete).msgs = s.msgs := rfl
@[simp] theorem State.complete_sigs (s : State) : (s.complete).sigs = s.sigs := rfl
@[simp] theorem State.complete_chans (s : State) : (s.complete).chans = s.chans := rfl
@[simp] theorem State.complete_phase (s : State) : (s.complete).phase = s.phase := rfl
@[simp] theorem State.complete_pending (s : State) : (s.complete).pending = none := rfl
@[simp] theorem State.complete_wait (s : State) : (s.complete).wait = s.wait := rfl
@[simp] theorem State.complete_latencies (s : State) : (s.complete).latencies = s.latencies := rfl
@[simp] theorem State.complete_host (s : State) : (s.complete).host = s.host := rfl
@[simp] theorem State.complete_reply (s : State) : (s.complete).reply = s.reply := rfl
@[simp] theorem State.complete_resetLine (s : State) : (s.complete).resetLine = s.resetLine := rfl
@[simp] theorem State.complete_draws (s : State) : (s.complete).draws = s.draws := rfl

/-! ### raise -/

@[simp] theorem State.raise_ie (s : State) (c : ErrCode) (e : ErrInfo) : (s.raise c e).ie = s.ie := rfl
@[simp] theorem State.raise_absentRaw0 (s : State) (c : ErrCode) (e : ErrInfo) : (s.raise c e).absentRaw0 = s.absentRaw0 := rfl
@[simp] theorem State.raise_rne (s : State) (c : ErrCode) (e : ErrInfo) : (s.raise c e).rne = s.rne := rfl
@[simp] theorem State.raise_done (s : State) (c : ErrCode) (e : ErrInfo) : (s.raise c e).done = true := rfl
@[simp] theorem State.raise_oor (s : State) (c : ErrCode) (e : ErrInfo) : (s.raise c e).oor = s.oor := rfl
@[simp] theorem State.raise_csumValid (s : State) (c : ErrCode) (e : ErrInfo) : (s.raise c e).csumValid = s.csumValid := rfl
@[simp] theorem State.raise_wdrop (s : State) (c : ErrCode) (e : ErrInfo) : (s.raise c e).wdrop = s.wdrop := rfl
@[simp] theorem State.raise_err (s : State) (c : ErrCode) (e : ErrInfo) : (s.raise c e).err = c := rfl
@[simp] theorem State.raise_cmd (s : State) (c : ErrCode) (e : ErrInfo) : (s.raise c e).cmd = s.cmd := rfl
@[simp] theorem State.raise_errInfo (s : State) (c : ErrCode) (e : ErrInfo) : (s.raise c e).errInfo = e.pack := rfl
@[simp] theorem State.raise_result0 (s : State) (c : ErrCode) (e : ErrInfo) : (s.raise c e).result0 = s.result0 := rfl
@[simp] theorem State.raise_result1 (s : State) (c : ErrCode) (e : ErrInfo) : (s.raise c e).result1 = s.result1 := rfl
@[simp] theorem State.raise_flen (s : State) (c : ErrCode) (e : ErrInfo) : (s.raise c e).flen = s.flen := rfl
@[simp] theorem State.raise_arg0 (s : State) (c : ErrCode) (e : ErrInfo) : (s.raise c e).arg0 = s.arg0 := rfl
@[simp] theorem State.raise_arg1 (s : State) (c : ErrCode) (e : ErrInfo) : (s.raise c e).arg1 = s.arg1 := rfl
@[simp] theorem State.raise_arg2 (s : State) (c : ErrCode) (e : ErrInfo) : (s.raise c e).arg2 = s.arg2 := rfl
@[simp] theorem State.raise_arg3 (s : State) (c : ErrCode) (e : ErrInfo) : (s.raise c e).arg3 = s.arg3 := rfl
@[simp] theorem State.raise_fbuf (s : State) (c : ErrCode) (e : ErrInfo) : (s.raise c e).fbuf = s.fbuf := rfl
@[simp] theorem State.raise_vals (s : State) (c : ErrCode) (e : ErrInfo) : (s.raise c e).vals = s.vals := rfl
@[simp] theorem State.raise_msgs (s : State) (c : ErrCode) (e : ErrInfo) : (s.raise c e).msgs = s.msgs := rfl
@[simp] theorem State.raise_sigs (s : State) (c : ErrCode) (e : ErrInfo) : (s.raise c e).sigs = s.sigs := rfl
@[simp] theorem State.raise_chans (s : State) (c : ErrCode) (e : ErrInfo) : (s.raise c e).chans = s.chans := rfl
@[simp] theorem State.raise_phase (s : State) (c : ErrCode) (e : ErrInfo) : (s.raise c e).phase = s.phase := rfl
@[simp] theorem State.raise_pending (s : State) (c : ErrCode) (e : ErrInfo) : (s.raise c e).pending = none := rfl
@[simp] theorem State.raise_wait (s : State) (c : ErrCode) (e : ErrInfo) : (s.raise c e).wait = s.wait := rfl
@[simp] theorem State.raise_latencies (s : State) (c : ErrCode) (e : ErrInfo) : (s.raise c e).latencies = s.latencies := rfl
@[simp] theorem State.raise_host (s : State) (c : ErrCode) (e : ErrInfo) : (s.raise c e).host = s.host := rfl
@[simp] theorem State.raise_reply (s : State) (c : ErrCode) (e : ErrInfo) : (s.raise c e).reply = s.reply := rfl
@[simp] theorem State.raise_resetLine (s : State) (c : ErrCode) (e : ErrInfo) : (s.raise c e).resetLine = s.resetLine := rfl
@[simp] theorem State.raise_draws (s : State) (c : ErrCode) (e : ErrInfo) : (s.raise c e).draws = s.draws := rfl

/-! ### accept -/

@[simp] theorem State.accept_ie (s : State) (w : Word) : (s.accept w).ie = s.ie := rfl
@[simp] theorem State.accept_absentRaw0 (s : State) (w : Word) : (s.accept w).absentRaw0 = s.absentRaw0 := rfl
@[simp] theorem State.accept_rne (s : State) (w : Word) : (s.accept w).rne = s.rne := rfl
@[simp] theorem State.accept_done (s : State) (w : Word) : (s.accept w).done = false := rfl
@[simp] theorem State.accept_oor (s : State) (w : Word) : (s.accept w).oor = s.oor := rfl
@[simp] theorem State.accept_csumValid (s : State) (w : Word) : (s.accept w).csumValid = s.csumValid := rfl
@[simp] theorem State.accept_wdrop (s : State) (w : Word) : (s.accept w).wdrop = s.wdrop := rfl
@[simp] theorem State.accept_err (s : State) (w : Word) : (s.accept w).err = s.err := rfl
@[simp] theorem State.accept_cmd (s : State) (w : Word) : (s.accept w).cmd = w := rfl
@[simp] theorem State.accept_errInfo (s : State) (w : Word) : (s.accept w).errInfo = s.errInfo := rfl
@[simp] theorem State.accept_result0 (s : State) (w : Word) : (s.accept w).result0 = s.result0 := rfl
@[simp] theorem State.accept_result1 (s : State) (w : Word) : (s.accept w).result1 = s.result1 := rfl
@[simp] theorem State.accept_flen (s : State) (w : Word) : (s.accept w).flen = s.flen := rfl
@[simp] theorem State.accept_arg0 (s : State) (w : Word) : (s.accept w).arg0 = s.arg0 := rfl
@[simp] theorem State.accept_arg1 (s : State) (w : Word) : (s.accept w).arg1 = s.arg1 := rfl
@[simp] theorem State.accept_arg2 (s : State) (w : Word) : (s.accept w).arg2 = s.arg2 := rfl
@[simp] theorem State.accept_arg3 (s : State) (w : Word) : (s.accept w).arg3 = s.arg3 := rfl
@[simp] theorem State.accept_fbuf (s : State) (w : Word) : (s.accept w).fbuf = s.fbuf := rfl
@[simp] theorem State.accept_vals (s : State) (w : Word) : (s.accept w).vals = s.vals := rfl
@[simp] theorem State.accept_msgs (s : State) (w : Word) : (s.accept w).msgs = s.msgs := rfl
@[simp] theorem State.accept_sigs (s : State) (w : Word) : (s.accept w).sigs = s.sigs := rfl
@[simp] theorem State.accept_chans (s : State) (w : Word) : (s.accept w).chans = s.chans := rfl
@[simp] theorem State.accept_phase (s : State) (w : Word) : (s.accept w).phase = s.phase := rfl
@[simp] theorem State.accept_pending (s : State) (w : Word) : (s.accept w).pending = some w := rfl
@[simp] theorem State.accept_wait (s : State) (w : Word) : (s.accept w).wait = s.nextLatency := rfl
@[simp] theorem State.accept_latencies (s : State) (w : Word) : (s.accept w).latencies = s.latencies.tail := rfl
@[simp] theorem State.accept_host (s : State) (w : Word) : (s.accept w).host = s.host := rfl
@[simp] theorem State.accept_reply (s : State) (w : Word) : (s.accept w).reply = s.reply := rfl
@[simp] theorem State.accept_resetLine (s : State) (w : Word) : (s.accept w).resetLine = s.resetLine := rfl
@[simp] theorem State.accept_draws (s : State) (w : Word) : (s.accept w).draws = if s.latencies.isEmpty then s.draws + 1 else s.draws := rfl

/-! ### setSlot -/

@[simp] theorem State.setSlot_ie (s : State) (j : Nat) (v : Slot) : (s.setSlot j v).ie = s.ie := rfl
@[simp] theorem State.setSlot_absentRaw0 (s : State) (j : Nat) (v : Slot) : (s.setSlot j v).absentRaw0 = s.absentRaw0 := rfl
@[simp] theorem State.setSlot_rne (s : State) (j : Nat) (v : Slot) : (s.setSlot j v).rne = s.rne := rfl
@[simp] theorem State.setSlot_done (s : State) (j : Nat) (v : Slot) : (s.setSlot j v).done = s.done := rfl
@[simp] theorem State.setSlot_oor (s : State) (j : Nat) (v : Slot) : (s.setSlot j v).oor = s.oor := rfl
@[simp] theorem State.setSlot_csumValid (s : State) (j : Nat) (v : Slot) : (s.setSlot j v).csumValid = s.csumValid := rfl
@[simp] theorem State.setSlot_wdrop (s : State) (j : Nat) (v : Slot) : (s.setSlot j v).wdrop = s.wdrop := rfl
@[simp] theorem State.setSlot_err (s : State) (j : Nat) (v : Slot) : (s.setSlot j v).err = s.err := rfl
@[simp] theorem State.setSlot_cmd (s : State) (j : Nat) (v : Slot) : (s.setSlot j v).cmd = s.cmd := rfl
@[simp] theorem State.setSlot_errInfo (s : State) (j : Nat) (v : Slot) : (s.setSlot j v).errInfo = s.errInfo := rfl
@[simp] theorem State.setSlot_result0 (s : State) (j : Nat) (v : Slot) : (s.setSlot j v).result0 = s.result0 := rfl
@[simp] theorem State.setSlot_result1 (s : State) (j : Nat) (v : Slot) : (s.setSlot j v).result1 = s.result1 := rfl
@[simp] theorem State.setSlot_flen (s : State) (j : Nat) (v : Slot) : (s.setSlot j v).flen = s.flen := rfl
@[simp] theorem State.setSlot_arg0 (s : State) (j : Nat) (v : Slot) : (s.setSlot j v).arg0 = s.arg0 := rfl
@[simp] theorem State.setSlot_arg1 (s : State) (j : Nat) (v : Slot) : (s.setSlot j v).arg1 = s.arg1 := rfl
@[simp] theorem State.setSlot_arg2 (s : State) (j : Nat) (v : Slot) : (s.setSlot j v).arg2 = s.arg2 := rfl
@[simp] theorem State.setSlot_arg3 (s : State) (j : Nat) (v : Slot) : (s.setSlot j v).arg3 = s.arg3 := rfl
@[simp] theorem State.setSlot_fbuf (s : State) (j : Nat) (v : Slot) : (s.setSlot j v).fbuf = s.fbuf := rfl
@[simp] theorem State.setSlot_vals (s : State) (j : Nat) (v : Slot) : (s.setSlot j v).vals = slotsSet s.vals j v := rfl
@[simp] theorem State.setSlot_msgs (s : State) (j : Nat) (v : Slot) : (s.setSlot j v).msgs = s.msgs := rfl
@[simp] theorem State.setSlot_sigs (s : State) (j : Nat) (v : Slot) : (s.setSlot j v).sigs = s.sigs := rfl
@[simp] theorem State.setSlot_chans (s : State) (j : Nat) (v : Slot) : (s.setSlot j v).chans = s.chans := rfl
@[simp] theorem State.setSlot_phase (s : State) (j : Nat) (v : Slot) : (s.setSlot j v).phase = s.phase := rfl
@[simp] theorem State.setSlot_pending (s : State) (j : Nat) (v : Slot) : (s.setSlot j v).pending = s.pending := rfl
@[simp] theorem State.setSlot_wait (s : State) (j : Nat) (v : Slot) : (s.setSlot j v).wait = s.wait := rfl
@[simp] theorem State.setSlot_latencies (s : State) (j : Nat) (v : Slot) : (s.setSlot j v).latencies = s.latencies := rfl
@[simp] theorem State.setSlot_host (s : State) (j : Nat) (v : Slot) : (s.setSlot j v).host = s.host := rfl
@[simp] theorem State.setSlot_reply (s : State) (j : Nat) (v : Slot) : (s.setSlot j v).reply = s.reply := rfl
@[simp] theorem State.setSlot_resetLine (s : State) (j : Nat) (v : Slot) : (s.setSlot j v).resetLine = s.resetLine := rfl
@[simp] theorem State.setSlot_draws (s : State) (j : Nat) (v : Slot) : (s.setSlot j v).draws = s.draws := rfl

/-! ### setMsg -/

@[simp] theorem State.setMsg_ie (s : State) (i : Nat) (m : MsgDesc) : (s.setMsg i m).ie = s.ie := rfl
@[simp] theorem State.setMsg_absentRaw0 (s : State) (i : Nat) (m : MsgDesc) : (s.setMsg i m).absentRaw0 = s.absentRaw0 := rfl
@[simp] theorem State.setMsg_rne (s : State) (i : Nat) (m : MsgDesc) : (s.setMsg i m).rne = s.rne := rfl
@[simp] theorem State.setMsg_done (s : State) (i : Nat) (m : MsgDesc) : (s.setMsg i m).done = s.done := rfl
@[simp] theorem State.setMsg_oor (s : State) (i : Nat) (m : MsgDesc) : (s.setMsg i m).oor = s.oor := rfl
@[simp] theorem State.setMsg_csumValid (s : State) (i : Nat) (m : MsgDesc) : (s.setMsg i m).csumValid = s.csumValid := rfl
@[simp] theorem State.setMsg_wdrop (s : State) (i : Nat) (m : MsgDesc) : (s.setMsg i m).wdrop = s.wdrop := rfl
@[simp] theorem State.setMsg_err (s : State) (i : Nat) (m : MsgDesc) : (s.setMsg i m).err = s.err := rfl
@[simp] theorem State.setMsg_cmd (s : State) (i : Nat) (m : MsgDesc) : (s.setMsg i m).cmd = s.cmd := rfl
@[simp] theorem State.setMsg_errInfo (s : State) (i : Nat) (m : MsgDesc) : (s.setMsg i m).errInfo = s.errInfo := rfl
@[simp] theorem State.setMsg_result0 (s : State) (i : Nat) (m : MsgDesc) : (s.setMsg i m).result0 = s.result0 := rfl
@[simp] theorem State.setMsg_result1 (s : State) (i : Nat) (m : MsgDesc) : (s.setMsg i m).result1 = s.result1 := rfl
@[simp] theorem State.setMsg_flen (s : State) (i : Nat) (m : MsgDesc) : (s.setMsg i m).flen = s.flen := rfl
@[simp] theorem State.setMsg_arg0 (s : State) (i : Nat) (m : MsgDesc) : (s.setMsg i m).arg0 = s.arg0 := rfl
@[simp] theorem State.setMsg_arg1 (s : State) (i : Nat) (m : MsgDesc) : (s.setMsg i m).arg1 = s.arg1 := rfl
@[simp] theorem State.setMsg_arg2 (s : State) (i : Nat) (m : MsgDesc) : (s.setMsg i m).arg2 = s.arg2 := rfl
@[simp] theorem State.setMsg_arg3 (s : State) (i : Nat) (m : MsgDesc) : (s.setMsg i m).arg3 = s.arg3 := rfl
@[simp] theorem State.setMsg_fbuf (s : State) (i : Nat) (m : MsgDesc) : (s.setMsg i m).fbuf = s.fbuf := rfl
@[simp] theorem State.setMsg_vals (s : State) (i : Nat) (m : MsgDesc) : (s.setMsg i m).vals = s.vals := rfl
@[simp] theorem State.setMsg_msgs (s : State) (i : Nat) (m : MsgDesc) : (s.setMsg i m).msgs = tableSet MsgDesc.reset Config.nmsg s.msgs i m := rfl
@[simp] theorem State.setMsg_sigs (s : State) (i : Nat) (m : MsgDesc) : (s.setMsg i m).sigs = s.sigs := rfl
@[simp] theorem State.setMsg_chans (s : State) (i : Nat) (m : MsgDesc) : (s.setMsg i m).chans = s.chans := rfl
@[simp] theorem State.setMsg_phase (s : State) (i : Nat) (m : MsgDesc) : (s.setMsg i m).phase = s.phase := rfl
@[simp] theorem State.setMsg_pending (s : State) (i : Nat) (m : MsgDesc) : (s.setMsg i m).pending = s.pending := rfl
@[simp] theorem State.setMsg_wait (s : State) (i : Nat) (m : MsgDesc) : (s.setMsg i m).wait = s.wait := rfl
@[simp] theorem State.setMsg_latencies (s : State) (i : Nat) (m : MsgDesc) : (s.setMsg i m).latencies = s.latencies := rfl
@[simp] theorem State.setMsg_host (s : State) (i : Nat) (m : MsgDesc) : (s.setMsg i m).host = s.host := rfl
@[simp] theorem State.setMsg_reply (s : State) (i : Nat) (m : MsgDesc) : (s.setMsg i m).reply = s.reply := rfl
@[simp] theorem State.setMsg_resetLine (s : State) (i : Nat) (m : MsgDesc) : (s.setMsg i m).resetLine = s.resetLine := rfl
@[simp] theorem State.setMsg_draws (s : State) (i : Nat) (m : MsgDesc) : (s.setMsg i m).draws = s.draws := rfl

/-! ### setSig -/

@[simp] theorem State.setSig_ie (s : State) (k : Nat) (d : SigDesc) : (s.setSig k d).ie = s.ie := rfl
@[simp] theorem State.setSig_absentRaw0 (s : State) (k : Nat) (d : SigDesc) : (s.setSig k d).absentRaw0 = s.absentRaw0 := rfl
@[simp] theorem State.setSig_rne (s : State) (k : Nat) (d : SigDesc) : (s.setSig k d).rne = s.rne := rfl
@[simp] theorem State.setSig_done (s : State) (k : Nat) (d : SigDesc) : (s.setSig k d).done = s.done := rfl
@[simp] theorem State.setSig_oor (s : State) (k : Nat) (d : SigDesc) : (s.setSig k d).oor = s.oor := rfl
@[simp] theorem State.setSig_csumValid (s : State) (k : Nat) (d : SigDesc) : (s.setSig k d).csumValid = s.csumValid := rfl
@[simp] theorem State.setSig_wdrop (s : State) (k : Nat) (d : SigDesc) : (s.setSig k d).wdrop = s.wdrop := rfl
@[simp] theorem State.setSig_err (s : State) (k : Nat) (d : SigDesc) : (s.setSig k d).err = s.err := rfl
@[simp] theorem State.setSig_cmd (s : State) (k : Nat) (d : SigDesc) : (s.setSig k d).cmd = s.cmd := rfl
@[simp] theorem State.setSig_errInfo (s : State) (k : Nat) (d : SigDesc) : (s.setSig k d).errInfo = s.errInfo := rfl
@[simp] theorem State.setSig_result0 (s : State) (k : Nat) (d : SigDesc) : (s.setSig k d).result0 = s.result0 := rfl
@[simp] theorem State.setSig_result1 (s : State) (k : Nat) (d : SigDesc) : (s.setSig k d).result1 = s.result1 := rfl
@[simp] theorem State.setSig_flen (s : State) (k : Nat) (d : SigDesc) : (s.setSig k d).flen = s.flen := rfl
@[simp] theorem State.setSig_arg0 (s : State) (k : Nat) (d : SigDesc) : (s.setSig k d).arg0 = s.arg0 := rfl
@[simp] theorem State.setSig_arg1 (s : State) (k : Nat) (d : SigDesc) : (s.setSig k d).arg1 = s.arg1 := rfl
@[simp] theorem State.setSig_arg2 (s : State) (k : Nat) (d : SigDesc) : (s.setSig k d).arg2 = s.arg2 := rfl
@[simp] theorem State.setSig_arg3 (s : State) (k : Nat) (d : SigDesc) : (s.setSig k d).arg3 = s.arg3 := rfl
@[simp] theorem State.setSig_fbuf (s : State) (k : Nat) (d : SigDesc) : (s.setSig k d).fbuf = s.fbuf := rfl
@[simp] theorem State.setSig_vals (s : State) (k : Nat) (d : SigDesc) : (s.setSig k d).vals = s.vals := rfl
@[simp] theorem State.setSig_msgs (s : State) (k : Nat) (d : SigDesc) : (s.setSig k d).msgs = s.msgs := rfl
@[simp] theorem State.setSig_sigs (s : State) (k : Nat) (d : SigDesc) : (s.setSig k d).sigs = tableSet SigDesc.reset Config.nsig s.sigs k d := rfl
@[simp] theorem State.setSig_chans (s : State) (k : Nat) (d : SigDesc) : (s.setSig k d).chans = s.chans := rfl
@[simp] theorem State.setSig_phase (s : State) (k : Nat) (d : SigDesc) : (s.setSig k d).phase = s.phase := rfl
@[simp] theorem State.setSig_pending (s : State) (k : Nat) (d : SigDesc) : (s.setSig k d).pending = s.pending := rfl
@[simp] theorem State.setSig_wait (s : State) (k : Nat) (d : SigDesc) : (s.setSig k d).wait = s.wait := rfl
@[simp] theorem State.setSig_latencies (s : State) (k : Nat) (d : SigDesc) : (s.setSig k d).latencies = s.latencies := rfl
@[simp] theorem State.setSig_host (s : State) (k : Nat) (d : SigDesc) : (s.setSig k d).host = s.host := rfl
@[simp] theorem State.setSig_reply (s : State) (k : Nat) (d : SigDesc) : (s.setSig k d).reply = s.reply := rfl
@[simp] theorem State.setSig_resetLine (s : State) (k : Nat) (d : SigDesc) : (s.setSig k d).resetLine = s.resetLine := rfl
@[simp] theorem State.setSig_draws (s : State) (k : Nat) (d : SigDesc) : (s.setSig k d).draws = s.draws := rfl

/-! ### setChan -/

@[simp] theorem State.setChan_ie (s : State) (c : Nat) (x : Channel) : (s.setChan c x).ie = s.ie := rfl
@[simp] theorem State.setChan_absentRaw0 (s : State) (c : Nat) (x : Channel) : (s.setChan c x).absentRaw0 = s.absentRaw0 := rfl
@[simp] theorem State.setChan_rne (s : State) (c : Nat) (x : Channel) : (s.setChan c x).rne = s.rne := rfl
@[simp] theorem State.setChan_done (s : State) (c : Nat) (x : Channel) : (s.setChan c x).done = s.done := rfl
@[simp] theorem State.setChan_oor (s : State) (c : Nat) (x : Channel) : (s.setChan c x).oor = s.oor := rfl
@[simp] theorem State.setChan_csumValid (s : State) (c : Nat) (x : Channel) : (s.setChan c x).csumValid = s.csumValid := rfl
@[simp] theorem State.setChan_wdrop (s : State) (c : Nat) (x : Channel) : (s.setChan c x).wdrop = s.wdrop := rfl
@[simp] theorem State.setChan_err (s : State) (c : Nat) (x : Channel) : (s.setChan c x).err = s.err := rfl
@[simp] theorem State.setChan_cmd (s : State) (c : Nat) (x : Channel) : (s.setChan c x).cmd = s.cmd := rfl
@[simp] theorem State.setChan_errInfo (s : State) (c : Nat) (x : Channel) : (s.setChan c x).errInfo = s.errInfo := rfl
@[simp] theorem State.setChan_result0 (s : State) (c : Nat) (x : Channel) : (s.setChan c x).result0 = s.result0 := rfl
@[simp] theorem State.setChan_result1 (s : State) (c : Nat) (x : Channel) : (s.setChan c x).result1 = s.result1 := rfl
@[simp] theorem State.setChan_flen (s : State) (c : Nat) (x : Channel) : (s.setChan c x).flen = s.flen := rfl
@[simp] theorem State.setChan_arg0 (s : State) (c : Nat) (x : Channel) : (s.setChan c x).arg0 = s.arg0 := rfl
@[simp] theorem State.setChan_arg1 (s : State) (c : Nat) (x : Channel) : (s.setChan c x).arg1 = s.arg1 := rfl
@[simp] theorem State.setChan_arg2 (s : State) (c : Nat) (x : Channel) : (s.setChan c x).arg2 = s.arg2 := rfl
@[simp] theorem State.setChan_arg3 (s : State) (c : Nat) (x : Channel) : (s.setChan c x).arg3 = s.arg3 := rfl
@[simp] theorem State.setChan_fbuf (s : State) (c : Nat) (x : Channel) : (s.setChan c x).fbuf = s.fbuf := rfl
@[simp] theorem State.setChan_vals (s : State) (c : Nat) (x : Channel) : (s.setChan c x).vals = s.vals := rfl
@[simp] theorem State.setChan_msgs (s : State) (c : Nat) (x : Channel) : (s.setChan c x).msgs = s.msgs := rfl
@[simp] theorem State.setChan_sigs (s : State) (c : Nat) (x : Channel) : (s.setChan c x).sigs = s.sigs := rfl
@[simp] theorem State.setChan_chans (s : State) (c : Nat) (x : Channel) : (s.setChan c x).chans = tableSet Channel.reset Config.nchan s.chans c x := rfl
@[simp] theorem State.setChan_phase (s : State) (c : Nat) (x : Channel) : (s.setChan c x).phase = s.phase := rfl
@[simp] theorem State.setChan_pending (s : State) (c : Nat) (x : Channel) : (s.setChan c x).pending = s.pending := rfl
@[simp] theorem State.setChan_wait (s : State) (c : Nat) (x : Channel) : (s.setChan c x).wait = s.wait := rfl
@[simp] theorem State.setChan_latencies (s : State) (c : Nat) (x : Channel) : (s.setChan c x).latencies = s.latencies := rfl
@[simp] theorem State.setChan_host (s : State) (c : Nat) (x : Channel) : (s.setChan c x).host = s.host := rfl
@[simp] theorem State.setChan_reply (s : State) (c : Nat) (x : Channel) : (s.setChan c x).reply = s.reply := rfl
@[simp] theorem State.setChan_resetLine (s : State) (c : Nat) (x : Channel) : (s.setChan c x).resetLine = s.resetLine := rfl
@[simp] theorem State.setChan_draws (s : State) (c : Nat) (x : Channel) : (s.setChan c x).draws = s.draws := rfl

/-! ### writeCtrl -/

@[simp] theorem State.writeCtrl_ie (s : State) (v : Word) : (s.writeCtrl v).ie = v.getLsbD 1 := rfl
@[simp] theorem State.writeCtrl_absentRaw0 (s : State) (v : Word) : (s.writeCtrl v).absentRaw0 = if s.locked then s.absentRaw0 else v.getLsbD 2 := rfl
@[simp] theorem State.writeCtrl_rne (s : State) (v : Word) : (s.writeCtrl v).rne = if s.locked then s.rne else v.getLsbD 3 := rfl
@[simp] theorem State.writeCtrl_done (s : State) (v : Word) : (s.writeCtrl v).done = s.done := rfl
@[simp] theorem State.writeCtrl_oor (s : State) (v : Word) : (s.writeCtrl v).oor = s.oor := rfl
@[simp] theorem State.writeCtrl_csumValid (s : State) (v : Word) : (s.writeCtrl v).csumValid = s.csumValid := rfl
@[simp] theorem State.writeCtrl_wdrop (s : State) (v : Word) : (s.writeCtrl v).wdrop = (s.wdrop || (s.locked && (v.getLsbD 2 != s.absentRaw0 || v.getLsbD 3 != s.rne))) := rfl
@[simp] theorem State.writeCtrl_err (s : State) (v : Word) : (s.writeCtrl v).err = s.err := rfl
@[simp] theorem State.writeCtrl_cmd (s : State) (v : Word) : (s.writeCtrl v).cmd = s.cmd := rfl
@[simp] theorem State.writeCtrl_errInfo (s : State) (v : Word) : (s.writeCtrl v).errInfo = s.errInfo := rfl
@[simp] theorem State.writeCtrl_result0 (s : State) (v : Word) : (s.writeCtrl v).result0 = s.result0 := rfl
@[simp] theorem State.writeCtrl_result1 (s : State) (v : Word) : (s.writeCtrl v).result1 = s.result1 := rfl
@[simp] theorem State.writeCtrl_flen (s : State) (v : Word) : (s.writeCtrl v).flen = s.flen := rfl
@[simp] theorem State.writeCtrl_arg0 (s : State) (v : Word) : (s.writeCtrl v).arg0 = s.arg0 := rfl
@[simp] theorem State.writeCtrl_arg1 (s : State) (v : Word) : (s.writeCtrl v).arg1 = s.arg1 := rfl
@[simp] theorem State.writeCtrl_arg2 (s : State) (v : Word) : (s.writeCtrl v).arg2 = s.arg2 := rfl
@[simp] theorem State.writeCtrl_arg3 (s : State) (v : Word) : (s.writeCtrl v).arg3 = s.arg3 := rfl
@[simp] theorem State.writeCtrl_fbuf (s : State) (v : Word) : (s.writeCtrl v).fbuf = s.fbuf := rfl
@[simp] theorem State.writeCtrl_vals (s : State) (v : Word) : (s.writeCtrl v).vals = s.vals := rfl
@[simp] theorem State.writeCtrl_msgs (s : State) (v : Word) : (s.writeCtrl v).msgs = s.msgs := rfl
@[simp] theorem State.writeCtrl_sigs (s : State) (v : Word) : (s.writeCtrl v).sigs = s.sigs := rfl
@[simp] theorem State.writeCtrl_chans (s : State) (v : Word) : (s.writeCtrl v).chans = s.chans := rfl
@[simp] theorem State.writeCtrl_phase (s : State) (v : Word) : (s.writeCtrl v).phase = s.phase := rfl
@[simp] theorem State.writeCtrl_pending (s : State) (v : Word) : (s.writeCtrl v).pending = s.pending := rfl
@[simp] theorem State.writeCtrl_wait (s : State) (v : Word) : (s.writeCtrl v).wait = s.wait := rfl
@[simp] theorem State.writeCtrl_latencies (s : State) (v : Word) : (s.writeCtrl v).latencies = s.latencies := rfl
@[simp] theorem State.writeCtrl_host (s : State) (v : Word) : (s.writeCtrl v).host = s.host := rfl
@[simp] theorem State.writeCtrl_reply (s : State) (v : Word) : (s.writeCtrl v).reply = s.reply := rfl
@[simp] theorem State.writeCtrl_resetLine (s : State) (v : Word) : (s.writeCtrl v).resetLine = s.resetLine := rfl
@[simp] theorem State.writeCtrl_draws (s : State) (v : Word) : (s.writeCtrl v).draws = s.draws := rfl

/-! ### writeStatus -/

@[simp] theorem State.writeStatus_ie (s : State) (v : Word) : (s.writeStatus v).ie = s.ie := rfl
@[simp] theorem State.writeStatus_absentRaw0 (s : State) (v : Word) : (s.writeStatus v).absentRaw0 = s.absentRaw0 := rfl
@[simp] theorem State.writeStatus_rne (s : State) (v : Word) : (s.writeStatus v).rne = s.rne := rfl
@[simp] theorem State.writeStatus_done (s : State) (v : Word) : (s.writeStatus v).done = (s.done && !v.getLsbD 1) := rfl
@[simp] theorem State.writeStatus_oor (s : State) (v : Word) : (s.writeStatus v).oor = s.oor := rfl
@[simp] theorem State.writeStatus_csumValid (s : State) (v : Word) : (s.writeStatus v).csumValid = s.csumValid := rfl
@[simp] theorem State.writeStatus_wdrop (s : State) (v : Word) : (s.writeStatus v).wdrop = (s.wdrop && !v.getLsbD 5) := rfl
@[simp] theorem State.writeStatus_err (s : State) (v : Word) : (s.writeStatus v).err = s.err := rfl
@[simp] theorem State.writeStatus_cmd (s : State) (v : Word) : (s.writeStatus v).cmd = s.cmd := rfl
@[simp] theorem State.writeStatus_errInfo (s : State) (v : Word) : (s.writeStatus v).errInfo = s.errInfo := rfl
@[simp] theorem State.writeStatus_result0 (s : State) (v : Word) : (s.writeStatus v).result0 = s.result0 := rfl
@[simp] theorem State.writeStatus_result1 (s : State) (v : Word) : (s.writeStatus v).result1 = s.result1 := rfl
@[simp] theorem State.writeStatus_flen (s : State) (v : Word) : (s.writeStatus v).flen = s.flen := rfl
@[simp] theorem State.writeStatus_arg0 (s : State) (v : Word) : (s.writeStatus v).arg0 = s.arg0 := rfl
@[simp] theorem State.writeStatus_arg1 (s : State) (v : Word) : (s.writeStatus v).arg1 = s.arg1 := rfl
@[simp] theorem State.writeStatus_arg2 (s : State) (v : Word) : (s.writeStatus v).arg2 = s.arg2 := rfl
@[simp] theorem State.writeStatus_arg3 (s : State) (v : Word) : (s.writeStatus v).arg3 = s.arg3 := rfl
@[simp] theorem State.writeStatus_fbuf (s : State) (v : Word) : (s.writeStatus v).fbuf = s.fbuf := rfl
@[simp] theorem State.writeStatus_vals (s : State) (v : Word) : (s.writeStatus v).vals = s.vals := rfl
@[simp] theorem State.writeStatus_msgs (s : State) (v : Word) : (s.writeStatus v).msgs = s.msgs := rfl
@[simp] theorem State.writeStatus_sigs (s : State) (v : Word) : (s.writeStatus v).sigs = s.sigs := rfl
@[simp] theorem State.writeStatus_chans (s : State) (v : Word) : (s.writeStatus v).chans = s.chans := rfl
@[simp] theorem State.writeStatus_phase (s : State) (v : Word) : (s.writeStatus v).phase = s.phase := rfl
@[simp] theorem State.writeStatus_pending (s : State) (v : Word) : (s.writeStatus v).pending = s.pending := rfl
@[simp] theorem State.writeStatus_wait (s : State) (v : Word) : (s.writeStatus v).wait = s.wait := rfl
@[simp] theorem State.writeStatus_latencies (s : State) (v : Word) : (s.writeStatus v).latencies = s.latencies := rfl
@[simp] theorem State.writeStatus_host (s : State) (v : Word) : (s.writeStatus v).host = s.host := rfl
@[simp] theorem State.writeStatus_reply (s : State) (v : Word) : (s.writeStatus v).reply = s.reply := rfl
@[simp] theorem State.writeStatus_resetLine (s : State) (v : Word) : (s.writeStatus v).resetLine = s.resetLine := rfl
@[simp] theorem State.writeStatus_draws (s : State) (v : Word) : (s.writeStatus v).draws = s.draws := rfl

/-! ### advanced -/

@[simp] theorem State.advanced_ie (s : State) : (s.advanced).ie = s.ie := rfl
@[simp] theorem State.advanced_absentRaw0 (s : State) : (s.advanced).absentRaw0 = s.absentRaw0 := rfl
@[simp] theorem State.advanced_rne (s : State) : (s.advanced).rne = s.rne := rfl
@[simp] theorem State.advanced_done (s : State) : (s.advanced).done = s.done := rfl
@[simp] theorem State.advanced_oor (s : State) : (s.advanced).oor = s.oor := rfl
@[simp] theorem State.advanced_csumValid (s : State) : (s.advanced).csumValid = s.csumValid := rfl
@[simp] theorem State.advanced_wdrop (s : State) : (s.advanced).wdrop = s.wdrop := rfl
@[simp] theorem State.advanced_err (s : State) : (s.advanced).err = s.err := rfl
@[simp] theorem State.advanced_cmd (s : State) : (s.advanced).cmd = s.cmd := rfl
@[simp] theorem State.advanced_errInfo (s : State) : (s.advanced).errInfo = s.errInfo := rfl
@[simp] theorem State.advanced_result0 (s : State) : (s.advanced).result0 = s.result0 := rfl
@[simp] theorem State.advanced_result1 (s : State) : (s.advanced).result1 = s.result1 := rfl
@[simp] theorem State.advanced_flen (s : State) : (s.advanced).flen = s.flen := rfl
@[simp] theorem State.advanced_arg0 (s : State) : (s.advanced).arg0 = s.arg0 := rfl
@[simp] theorem State.advanced_arg1 (s : State) : (s.advanced).arg1 = s.arg1 := rfl
@[simp] theorem State.advanced_arg2 (s : State) : (s.advanced).arg2 = s.arg2 := rfl
@[simp] theorem State.advanced_arg3 (s : State) : (s.advanced).arg3 = s.arg3 := rfl
@[simp] theorem State.advanced_fbuf (s : State) : (s.advanced).fbuf = s.fbuf := rfl
@[simp] theorem State.advanced_vals (s : State) : (s.advanced).vals = s.vals := rfl
@[simp] theorem State.advanced_msgs (s : State) : (s.advanced).msgs = s.msgs := rfl
@[simp] theorem State.advanced_sigs (s : State) : (s.advanced).sigs = s.sigs := rfl
@[simp] theorem State.advanced_chans (s : State) : (s.advanced).chans = s.chans := rfl
@[simp] theorem State.advanced_phase (s : State) : (s.advanced).phase = s.phase := rfl
@[simp] theorem State.advanced_pending (s : State) : (s.advanced).pending = s.pending := rfl
@[simp] theorem State.advanced_wait (s : State) : (s.advanced).wait = s.wait - 1 := rfl
@[simp] theorem State.advanced_latencies (s : State) : (s.advanced).latencies = s.latencies := rfl
@[simp] theorem State.advanced_host (s : State) : (s.advanced).host = s.host.tail := rfl
@[simp] theorem State.advanced_reply (s : State) : (s.advanced).reply = s.reply := rfl
@[simp] theorem State.advanced_resetLine (s : State) : (s.advanced).resetLine = s.resetLine := rfl
@[simp] theorem State.advanced_draws (s : State) : (s.advanced).draws = s.draws := rfl

/-! ### withFetchWord -/

@[simp] theorem State.withFetchWord_ie (s : State) (n w : Nat) : (s.withFetchWord n w).ie = s.ie := rfl
@[simp] theorem State.withFetchWord_absentRaw0 (s : State) (n w : Nat) : (s.withFetchWord n w).absentRaw0 = s.absentRaw0 := rfl
@[simp] theorem State.withFetchWord_rne (s : State) (n w : Nat) : (s.withFetchWord n w).rne = s.rne := rfl
@[simp] theorem State.withFetchWord_done (s : State) (n w : Nat) : (s.withFetchWord n w).done = false := rfl
@[simp] theorem State.withFetchWord_oor (s : State) (n w : Nat) : (s.withFetchWord n w).oor = s.oor := rfl
@[simp] theorem State.withFetchWord_csumValid (s : State) (n w : Nat) : (s.withFetchWord n w).csumValid = s.csumValid := rfl
@[simp] theorem State.withFetchWord_wdrop (s : State) (n w : Nat) : (s.withFetchWord n w).wdrop = s.wdrop := rfl
@[simp] theorem State.withFetchWord_err (s : State) (n w : Nat) : (s.withFetchWord n w).err = s.err := rfl
@[simp] theorem State.withFetchWord_cmd (s : State) (n w : Nat) : (s.withFetchWord n w).cmd = BitVec.ofNat 32 (w % 2 ^ n) := rfl
@[simp] theorem State.withFetchWord_errInfo (s : State) (n w : Nat) : (s.withFetchWord n w).errInfo = s.errInfo := rfl
@[simp] theorem State.withFetchWord_result0 (s : State) (n w : Nat) : (s.withFetchWord n w).result0 = s.result0 := rfl
@[simp] theorem State.withFetchWord_result1 (s : State) (n w : Nat) : (s.withFetchWord n w).result1 = s.result1 := rfl
@[simp] theorem State.withFetchWord_flen (s : State) (n w : Nat) : (s.withFetchWord n w).flen = s.flen := rfl
@[simp] theorem State.withFetchWord_arg0 (s : State) (n w : Nat) : (s.withFetchWord n w).arg0 = s.arg0 := rfl
@[simp] theorem State.withFetchWord_arg1 (s : State) (n w : Nat) : (s.withFetchWord n w).arg1 = s.arg1 := rfl
@[simp] theorem State.withFetchWord_arg2 (s : State) (n w : Nat) : (s.withFetchWord n w).arg2 = s.arg2 := rfl
@[simp] theorem State.withFetchWord_arg3 (s : State) (n w : Nat) : (s.withFetchWord n w).arg3 = s.arg3 := rfl
@[simp] theorem State.withFetchWord_fbuf (s : State) (n w : Nat) : (s.withFetchWord n w).fbuf = s.fbuf := rfl
@[simp] theorem State.withFetchWord_vals (s : State) (n w : Nat) : (s.withFetchWord n w).vals = s.vals := rfl
@[simp] theorem State.withFetchWord_msgs (s : State) (n w : Nat) : (s.withFetchWord n w).msgs = s.msgs := rfl
@[simp] theorem State.withFetchWord_sigs (s : State) (n w : Nat) : (s.withFetchWord n w).sigs = s.sigs := rfl
@[simp] theorem State.withFetchWord_chans (s : State) (n w : Nat) : (s.withFetchWord n w).chans = s.chans := rfl
@[simp] theorem State.withFetchWord_phase (s : State) (n w : Nat) : (s.withFetchWord n w).phase = s.phase := rfl
@[simp] theorem State.withFetchWord_pending (s : State) (n w : Nat) : (s.withFetchWord n w).pending = some (BitVec.ofNat 32 (w % 2 ^ n)) := rfl
@[simp] theorem State.withFetchWord_wait (s : State) (n w : Nat) : (s.withFetchWord n w).wait = 0 := rfl
@[simp] theorem State.withFetchWord_latencies (s : State) (n w : Nat) : (s.withFetchWord n w).latencies = s.latencies := rfl
@[simp] theorem State.withFetchWord_host (s : State) (n w : Nat) : (s.withFetchWord n w).host = s.host := rfl
@[simp] theorem State.withFetchWord_reply (s : State) (n w : Nat) : (s.withFetchWord n w).reply = s.reply := rfl
@[simp] theorem State.withFetchWord_resetLine (s : State) (n w : Nat) : (s.withFetchWord n w).resetLine = false := rfl
@[simp] theorem State.withFetchWord_draws (s : State) (n w : Nat) : (s.withFetchWord n w).draws = s.draws := rfl

/-! ### encodeMessage -/

@[simp] theorem encodeMessage_ie (s : State) (m : MsgDesc) (b : Bool) : (encodeMessage m b s).ie = s.ie := rfl
@[simp] theorem encodeMessage_absentRaw0 (s : State) (m : MsgDesc) (b : Bool) : (encodeMessage m b s).absentRaw0 = s.absentRaw0 := rfl
@[simp] theorem encodeMessage_rne (s : State) (m : MsgDesc) (b : Bool) : (encodeMessage m b s).rne = s.rne := rfl
@[simp] theorem encodeMessage_done (s : State) (m : MsgDesc) (b : Bool) : (encodeMessage m b s).done = s.done := rfl
@[simp] theorem encodeMessage_oor (s : State) (m : MsgDesc) (b : Bool) : (encodeMessage m b s).oor = (List.range m.sigCount.toNat).any (slotClamped m s) := rfl
@[simp] theorem encodeMessage_csumValid (s : State) (m : MsgDesc) (b : Bool) : (encodeMessage m b s).csumValid = s.csumValid := rfl
@[simp] theorem encodeMessage_wdrop (s : State) (m : MsgDesc) (b : Bool) : (encodeMessage m b s).wdrop = s.wdrop := rfl
@[simp] theorem encodeMessage_err (s : State) (m : MsgDesc) (b : Bool) : (encodeMessage m b s).err = s.err := rfl
@[simp] theorem encodeMessage_cmd (s : State) (m : MsgDesc) (b : Bool) : (encodeMessage m b s).cmd = s.cmd := rfl
@[simp] theorem encodeMessage_errInfo (s : State) (m : MsgDesc) (b : Bool) : (encodeMessage m b s).errInfo = s.errInfo := rfl
@[simp] theorem encodeMessage_result0 (s : State) (m : MsgDesc) (b : Bool) : (encodeMessage m b s).result0 = s.result0 := rfl
@[simp] theorem encodeMessage_result1 (s : State) (m : MsgDesc) (b : Bool) : (encodeMessage m b s).result1 = s.result1 := rfl
@[simp] theorem encodeMessage_flen (s : State) (m : MsgDesc) (b : Bool) : (encodeMessage m b s).flen = m.len := rfl
@[simp] theorem encodeMessage_arg0 (s : State) (m : MsgDesc) (b : Bool) : (encodeMessage m b s).arg0 = s.arg0 := rfl
@[simp] theorem encodeMessage_arg1 (s : State) (m : MsgDesc) (b : Bool) : (encodeMessage m b s).arg1 = s.arg1 := rfl
@[simp] theorem encodeMessage_arg2 (s : State) (m : MsgDesc) (b : Bool) : (encodeMessage m b s).arg2 = s.arg2 := rfl
@[simp] theorem encodeMessage_arg3 (s : State) (m : MsgDesc) (b : Bool) : (encodeMessage m b s).arg3 = s.arg3 := rfl
@[simp] theorem encodeMessage_fbuf (s : State) (m : MsgDesc) (b : Bool) : (encodeMessage m b s).fbuf = packFrame m s (List.range m.sigCount.toNat) (startFrame m b s.fbuf) := rfl
@[simp] theorem encodeMessage_vals (s : State) (m : MsgDesc) (b : Bool) : (encodeMessage m b s).vals = (List.range m.sigCount.toNat).foldl (fun t j => slotsSet t j (encodedSlot m s j)) s.vals := rfl
@[simp] theorem encodeMessage_msgs (s : State) (m : MsgDesc) (b : Bool) : (encodeMessage m b s).msgs = s.msgs := rfl
@[simp] theorem encodeMessage_sigs (s : State) (m : MsgDesc) (b : Bool) : (encodeMessage m b s).sigs = s.sigs := rfl
@[simp] theorem encodeMessage_chans (s : State) (m : MsgDesc) (b : Bool) : (encodeMessage m b s).chans = s.chans := rfl
@[simp] theorem encodeMessage_phase (s : State) (m : MsgDesc) (b : Bool) : (encodeMessage m b s).phase = s.phase := rfl
@[simp] theorem encodeMessage_pending (s : State) (m : MsgDesc) (b : Bool) : (encodeMessage m b s).pending = s.pending := rfl
@[simp] theorem encodeMessage_wait (s : State) (m : MsgDesc) (b : Bool) : (encodeMessage m b s).wait = s.wait := rfl
@[simp] theorem encodeMessage_latencies (s : State) (m : MsgDesc) (b : Bool) : (encodeMessage m b s).latencies = s.latencies := rfl
@[simp] theorem encodeMessage_host (s : State) (m : MsgDesc) (b : Bool) : (encodeMessage m b s).host = s.host := rfl
@[simp] theorem encodeMessage_reply (s : State) (m : MsgDesc) (b : Bool) : (encodeMessage m b s).reply = s.reply := rfl
@[simp] theorem encodeMessage_resetLine (s : State) (m : MsgDesc) (b : Bool) : (encodeMessage m b s).resetLine = s.resetLine := rfl
@[simp] theorem encodeMessage_draws (s : State) (m : MsgDesc) (b : Bool) : (encodeMessage m b s).draws = s.draws := rfl

/-! ### decodeMessage -/

@[simp] theorem decodeMessage_ie (s : State) (m : MsgDesc) : (decodeMessage m s).ie = s.ie := rfl
@[simp] theorem decodeMessage_absentRaw0 (s : State) (m : MsgDesc) : (decodeMessage m s).absentRaw0 = s.absentRaw0 := rfl
@[simp] theorem decodeMessage_rne (s : State) (m : MsgDesc) : (decodeMessage m s).rne = s.rne := rfl
@[simp] theorem decodeMessage_done (s : State) (m : MsgDesc) : (decodeMessage m s).done = s.done := rfl
@[simp] theorem decodeMessage_oor (s : State) (m : MsgDesc) : (decodeMessage m s).oor = s.oor := rfl
@[simp] theorem decodeMessage_csumValid (s : State) (m : MsgDesc) : (decodeMessage m s).csumValid = s.csumValid := rfl
@[simp] theorem decodeMessage_wdrop (s : State) (m : MsgDesc) : (decodeMessage m s).wdrop = s.wdrop := rfl
@[simp] theorem decodeMessage_err (s : State) (m : MsgDesc) : (decodeMessage m s).err = s.err := rfl
@[simp] theorem decodeMessage_cmd (s : State) (m : MsgDesc) : (decodeMessage m s).cmd = s.cmd := rfl
@[simp] theorem decodeMessage_errInfo (s : State) (m : MsgDesc) : (decodeMessage m s).errInfo = s.errInfo := rfl
@[simp] theorem decodeMessage_result0 (s : State) (m : MsgDesc) : (decodeMessage m s).result0 = s.result0 := rfl
@[simp] theorem decodeMessage_result1 (s : State) (m : MsgDesc) : (decodeMessage m s).result1 = s.result1 := rfl
@[simp] theorem decodeMessage_flen (s : State) (m : MsgDesc) : (decodeMessage m s).flen = s.flen := rfl
@[simp] theorem decodeMessage_arg0 (s : State) (m : MsgDesc) : (decodeMessage m s).arg0 = s.arg0 := rfl
@[simp] theorem decodeMessage_arg1 (s : State) (m : MsgDesc) : (decodeMessage m s).arg1 = s.arg1 := rfl
@[simp] theorem decodeMessage_arg2 (s : State) (m : MsgDesc) : (decodeMessage m s).arg2 = s.arg2 := rfl
@[simp] theorem decodeMessage_arg3 (s : State) (m : MsgDesc) : (decodeMessage m s).arg3 = s.arg3 := rfl
@[simp] theorem decodeMessage_fbuf (s : State) (m : MsgDesc) : (decodeMessage m s).fbuf = s.fbuf := rfl
@[simp] theorem decodeMessage_vals (s : State) (m : MsgDesc) : (decodeMessage m s).vals = (List.range m.sigCount.toNat).foldl (fun t j => slotsSet t j (unpackedSlot m s j)) s.vals := rfl
@[simp] theorem decodeMessage_msgs (s : State) (m : MsgDesc) : (decodeMessage m s).msgs = s.msgs := rfl
@[simp] theorem decodeMessage_sigs (s : State) (m : MsgDesc) : (decodeMessage m s).sigs = s.sigs := rfl
@[simp] theorem decodeMessage_chans (s : State) (m : MsgDesc) : (decodeMessage m s).chans = s.chans := rfl
@[simp] theorem decodeMessage_phase (s : State) (m : MsgDesc) : (decodeMessage m s).phase = s.phase := rfl
@[simp] theorem decodeMessage_pending (s : State) (m : MsgDesc) : (decodeMessage m s).pending = s.pending := rfl
@[simp] theorem decodeMessage_wait (s : State) (m : MsgDesc) : (decodeMessage m s).wait = s.wait := rfl
@[simp] theorem decodeMessage_latencies (s : State) (m : MsgDesc) : (decodeMessage m s).latencies = s.latencies := rfl
@[simp] theorem decodeMessage_host (s : State) (m : MsgDesc) : (decodeMessage m s).host = s.host := rfl
@[simp] theorem decodeMessage_reply (s : State) (m : MsgDesc) : (decodeMessage m s).reply = s.reply := rfl
@[simp] theorem decodeMessage_resetLine (s : State) (m : MsgDesc) : (decodeMessage m s).resetLine = s.resetLine := rfl
@[simp] theorem decodeMessage_draws (s : State) (m : MsgDesc) : (decodeMessage m s).draws = s.draws := rfl

/-! ### assertReset -/

@[simp] theorem State.assertReset_ie (s : State) : s.assertReset.ie = State.reset.ie := rfl
@[simp] theorem State.assertReset_absentRaw0 (s : State) : s.assertReset.absentRaw0 = State.reset.absentRaw0 := rfl
@[simp] theorem State.assertReset_rne (s : State) : s.assertReset.rne = State.reset.rne := rfl
@[simp] theorem State.assertReset_done (s : State) : s.assertReset.done = State.reset.done := rfl
@[simp] theorem State.assertReset_oor (s : State) : s.assertReset.oor = State.reset.oor := rfl
@[simp] theorem State.assertReset_csumValid (s : State) : s.assertReset.csumValid = State.reset.csumValid := rfl
@[simp] theorem State.assertReset_wdrop (s : State) : s.assertReset.wdrop = State.reset.wdrop := rfl
@[simp] theorem State.assertReset_err (s : State) : s.assertReset.err = State.reset.err := rfl
@[simp] theorem State.assertReset_cmd (s : State) : s.assertReset.cmd = State.reset.cmd := rfl
@[simp] theorem State.assertReset_errInfo (s : State) : s.assertReset.errInfo = State.reset.errInfo := rfl
@[simp] theorem State.assertReset_result0 (s : State) : s.assertReset.result0 = State.reset.result0 := rfl
@[simp] theorem State.assertReset_result1 (s : State) : s.assertReset.result1 = State.reset.result1 := rfl
@[simp] theorem State.assertReset_flen (s : State) : s.assertReset.flen = State.reset.flen := rfl
@[simp] theorem State.assertReset_arg0 (s : State) : s.assertReset.arg0 = State.reset.arg0 := rfl
@[simp] theorem State.assertReset_arg1 (s : State) : s.assertReset.arg1 = State.reset.arg1 := rfl
@[simp] theorem State.assertReset_arg2 (s : State) : s.assertReset.arg2 = State.reset.arg2 := rfl
@[simp] theorem State.assertReset_arg3 (s : State) : s.assertReset.arg3 = State.reset.arg3 := rfl
@[simp] theorem State.assertReset_fbuf (s : State) : s.assertReset.fbuf = State.reset.fbuf := rfl
@[simp] theorem State.assertReset_vals (s : State) : s.assertReset.vals = State.reset.vals := rfl
@[simp] theorem State.assertReset_msgs (s : State) : s.assertReset.msgs = State.reset.msgs := rfl
@[simp] theorem State.assertReset_sigs (s : State) : s.assertReset.sigs = State.reset.sigs := rfl
@[simp] theorem State.assertReset_chans (s : State) : s.assertReset.chans = State.reset.chans := rfl
@[simp] theorem State.assertReset_phase (s : State) : s.assertReset.phase = State.reset.phase := rfl
@[simp] theorem State.assertReset_pending (s : State) : s.assertReset.pending = State.reset.pending := rfl
@[simp] theorem State.assertReset_wait (s : State) : s.assertReset.wait = State.reset.wait := rfl
@[simp] theorem State.assertReset_latencies (s : State) : s.assertReset.latencies = s.latencies := rfl
@[simp] theorem State.assertReset_host (s : State) : s.assertReset.host = s.host := rfl
@[simp] theorem State.assertReset_reply (s : State) : s.assertReset.reply = s.reply := rfl
@[simp] theorem State.assertReset_resetLine (s : State) : s.assertReset.resetLine = true := rfl
@[simp] theorem State.assertReset_draws (s : State) : s.assertReset.draws = s.draws := rfl

end Sys2Proof.Machine
end

