-- ==== Sys2Proof/Laws/Exec.lean ====
section
/-! SUPPORT. What the shared operations of the commands come to, once: the common checks, the two ways a command ends, the
loops over the slots, the register files. -/

namespace Sys2Proof.Machine

theorem next_inj {s t : State} (h : (Host.Outcome.next s : Result) = .next t) : s = t := by cases h; rfl

/-! ### The common checks (60_exceptions R254) -/

theorem withMessage_ok {s : State} {i : Nat} (hp : s.phase = .operate) (hi : i < 64) (he : (s.msg i).en = true)
    (body : MsgDesc → Result) : withMessage i s body = body (s.msg i) := by
  simp [withMessage, needOperate, hp, messageOperand, hi, he, Config.nmsg]

theorem withChannel_ok {s : State} {c : Nat} (hp : s.phase = .operate) (hc : c < 2) (he : (s.chan c).en = true)
    (body : Channel → Result) : withChannel c s body = body (s.chan c) := by
  simp [withChannel, needOperate, hp, channelOperand, hc, he, Config.nchan]

theorem withCounter_ok {s : State} {i : Nat} (hp : s.phase = .operate) (hi : i < 64) (he : (s.msg i).en = true)
    (hc : (s.msg i).cntEn = true) (body : MsgDesc → State) :
    withCounter i s body = .next (body (s.msg i)).complete := by
  simp only [withCounter, withMessage_ok hp hi he, hc, if_true]

/-- A message command fails one of the common checks or goes on with its own rule. -/
theorem withMessage_cases (i : Nat) (s : State) (body : MsgDesc → Result) :
    (∃ c, c ≠ .none ∧ withMessage i s body = failCommand c i s) ∨
      (s.phase = .operate ∧ i < 64 ∧ (s.msg i).en = true ∧ withMessage i s body = body (s.msg i)) := by
  cases hp : s.phase
  · exact .inl ⟨.notLocked, by decide, by simp only [withMessage, needOperate, hp]⟩
  · by_cases h : i < 64 ∧ (s.msg i).en = true
    · exact .inr ⟨rfl, h.1, h.2, withMessage_ok hp h.1 h.2 body⟩
    · refine .inl ⟨.badIndex, by decide, ?_⟩
      simp only [withMessage, needOperate, hp, messageOperand, Config.nmsg, h, if_false]

/-- A channel command fails one of the common checks or goes on with its own rule. -/
theorem withChannel_cases (c : Nat) (s : State) (body : Channel → Result) :
    (∃ e, e ≠ .none ∧ withChannel c s body = failCommand e c s) ∨
      (s.phase = .operate ∧ c < 2 ∧ (s.chan c).en = true ∧ withChannel c s body = body (s.chan c)) := by
  cases hp : s.phase
  · exact .inl ⟨.notLocked, by decide, by simp only [withChannel, needOperate, hp]⟩
  · by_cases h : c < 2 ∧ (s.chan c).en = true
    · exact .inr ⟨rfl, h.1, h.2, withChannel_ok hp h.1 h.2 body⟩
    · refine .inl ⟨.badIndex, by decide, ?_⟩
      simp only [withChannel, needOperate, hp, channelOperand, Config.nchan, h, if_false]

/-! ### How a command ends -/

/-- The fields a command can change beside its completion fields. -/
def State.changedOnlyByCommand (s u : State) : Prop :=
  u = { s with
    oor := u.oor, csumValid := u.csumValid, result0 := u.result0, result1 := u.result1, flen := u.flen
    fbuf := u.fbuf, vals := u.vals, chans := u.chans, phase := u.phase }

/-- Every command ends in one of two ways: it raises an error, or it completes after changing only its result fields. -/
theorem exec_cases (i : Instr) (s : State) :
    (∃ c e, c ≠ ErrCode.none ∧ exec i s = .next (s.raise c e)) ∨
      (∃ u : State, exec i s = .next u.complete ∧ s.changedOnlyByCommand u) := by
  cases i <;>
    simp only [exec, execNop, execEncode, execDecode, execCscomp, execCsins, execCsval, execCntrd, execCntwr,
      execCntnxt, execLookup, execVclr, execLock, execLstep, execLrst, withCounter, withMessage, withChannel,
      needOperate, failCommand] <;>
    repeat' split
  all_goals first
    | exact .inl ⟨_, _, by decide, rfl⟩
    | exact .inr ⟨_, rfl, rfl⟩

/-! ### The register files and the loops over the slots -/

theorem State.slot_setSlot (s : State) (j k : Nat) (v : Slot) :
    (s.setSlot j v).slot k = if k = j ∧ j < 64 then v else s.slot k :=
  tableRead_tableSet ..

theorem State.msg_setMsg (s : State) (i k : Nat) (m : MsgDesc) :
    (s.setMsg i m).msg k = if k = i ∧ i < 64 then m else s.msg k :=
  tableRead_tableSet ..

theorem State.sig_setSig (s : State) (i k : Nat) (d : SigDesc) :
    (s.setSig i d).sig k = if k = i ∧ i < 512 then d else s.sig k :=
  tableRead_tableSet ..

theorem State.chan_setChan (s : State) (c k : Nat) (x : Channel) :
    (s.setChan c x).chan k = if k = c ∧ c < 2 then x else s.chan k :=
  tableRead_tableSet ..

/-- A loop that writes slots `0 .. n-1`. -/
theorem tableRead_foldl_slotsSet (n : Nat) (hn : n ≤ 64) (t : List (Nat × Slot)) (g : Nat → Slot) (j : Nat) :
    tableRead Slot.reset ((List.range n).foldl (fun t j => slotsSet t j (g j)) t) j =
      if j < n then g j else tableRead Slot.reset t j := by
  induction n with
  | zero => simp
  | succ n ih =>
    rw [List.range_succ, List.foldl_append]
    simp only [List.foldl_cons, List.foldl_nil, slotsSet]
    rw [tableRead_tableSet]
    by_cases h : j = n
    · subst h
      rw [if_pos ⟨rfl, show j < 64 by omega⟩, if_pos (by omega)]
    · rw [if_neg (fun e => h e.1)]
      have := ih (by omega)
      simp only [slotsSet] at this
      rw [this]
      by_cases h2 : j < n
      · rw [if_pos h2, if_pos (by omega)]
      · rw [if_neg h2, if_neg (by omega)]

theorem foldl_slotsSet_wf (l : List Nat) (t : List (Nat × Slot)) (g : Nat → Slot)
    (h : tableWf Slot.reset 64 t = true) :
    tableWf Slot.reset 64 (l.foldl (fun t j => slotsSet t j (g j)) t) = true := by
  induction l generalizing t with
  | nil => exact h
  | cons a l ih => exact ih _ (tableSet_wf _ _ _ _ _ h)

/-- Packing changes only the bits of the fields it packs. -/
theorem frameBitGet_packFrame_other (m : MsgDesc) (s : State) (n : Nat) (f : Memory) (b : Nat)
    (h : ∀ j < n, b ∉ (s.signalOf m j).frameBits) :
    frameBitGet (packFrame m s (List.range n) f) b = frameBitGet f b := by
  induction n with
  | zero => rfl
  | succ n ih =>
    unfold packFrame at *
    rw [List.range_succ, List.foldl_append]
    simp only [List.foldl_cons, List.foldl_nil]
    exact (frameBitGet_fieldSet_other _ _ _ _ _ _ (h n (by omega))).trans (ih (fun j hj => h j (by omega)))

theorem packFrame_wf (m : MsgDesc) (s : State) (l : List Nat) (f : Memory) (h : f.wf = true) :
    (packFrame m s l f).wf = true :=
  Memory.foldl_wf _ (fun _ _ h => fieldSet_wf _ _ _ _ _ h) _ _ h

theorem startFrame_wf (m : MsgDesc) (clr : Bool) (f : Memory) (h : f.wf = true) : (startFrame m clr f).wf = true := by
  unfold startFrame
  split
  · exact Memory.clear_wf _ _ h
  · exact h

theorem counterPut_wf (m : MsgDesc) (f : Memory) (u : Nat) (h : f.wf = true) : (m.counterPut f u).wf = true :=
  fieldSet_wf _ _ _ _ _ h

/-! ### The outcomes of a descriptor check -/

theorem lowestFailing_none {n : Nat} {f : Nat → Bool} : lowestFailing n f = none ↔ ∀ j < n, f j = false := by
  simp [lowestFailing]

theorem failsWithoutSlot_none {b : Bool} : failsWithoutSlot b = none ↔ b = false := by
  cases b <;> simp [failsWithoutSlot]

theorem shareBit_false {a b : SigDesc} : shareBit a b = false ↔ ∀ x ∈ a.frameBits, x ∉ b.frameBits := by
  simp [shareBit]

end Sys2Proof.Machine
end

