-- ==== Sys2Proof/Laws/Lock.lean ====
section
/-! SUPPORT. What the checks of `LOCK` come to (43_control R231, R232): `checkMessage` answers the `SLOT` of the table of R232,
and what `LOCK` finds depends on the catalog alone. -/

namespace Sys2Proof.Machine

/-! ### A check with a slot, and one without -/

theorem lowestFailing_some {n : Nat} {f : Nat → Bool} {p : Nat → Prop} {slot : Nat} (hp : ∀ j, f j = true ↔ p j)
    (h : LowestSlot n p slot) : lowestFailing n f = some (BitVec.ofNat 8 slot) := by
  have : (List.range n).find? f = some slot := by
    rw [List.find?_range_eq_some]
    exact ⟨(hp _).2 h.2.1, by simpa using h.1, fun j hj => by simpa [← hp j] using h.2.2 j hj⟩
  simp [lowestFailing, this]

theorem lowestFailing_none_of {n : Nat} {f : Nat → Bool} {p : Nat → Prop} (hp : ∀ j, f j = true ↔ p j)
    (h : ∀ slot, ¬ LowestSlot n p slot) : lowestFailing n f = none := by
  rw [lowestFailing_none]
  intro j
  induction j using Nat.strong_induction_on with
  | _ j ih =>
    intro hj
    rw [Bool.eq_false_iff, Ne, hp]
    exact fun hpj => h j ⟨hj, hpj, fun k hk hpk => by simpa [(hp k).2 hpk] using ih k hk (by omega)⟩

theorem failsWithoutSlot_some {b : Bool} {p : Prop} {slot : Nat} (hp : b = true ↔ p) (h : slot = 0xFF ∧ p) :
    failsWithoutSlot b = some (BitVec.ofNat 8 slot) := by
  rw [failsWithoutSlot, if_pos (hp.2 h.2), h.1]
  rfl

theorem failsWithoutSlot_none_of {b : Bool} {p : Prop} (hp : b = true ↔ p) (h : ∀ slot, ¬ (slot = 0xFF ∧ p)) :
    failsWithoutSlot b = none := by
  rw [failsWithoutSlot_none, Bool.eq_false_iff, Ne, hp]
  exact fun hb => h _ ⟨rfl, hb⟩

/-! ### The table of R232 -/

theorem bv_eq_zero_toNat {n : Nat} (x : BitVec n) : x = 0 ↔ x.toNat = 0 :=
  ⟨fun h => by simp [h], fun h => BitVec.eq_of_toNat_eq (by simpa using h)⟩

theorem bv_eq_zero_toInt {n : Nat} (x : BitVec n) : x = 0 ↔ x.toInt = 0 :=
  ⟨fun h => by simp [h], fun h => BitVec.eq_of_toInt_eq (by simpa using h)⟩

theorem shareBit_true {a b : SigDesc} : shareBit a b = true ↔ ∃ x, x ∈ a.frameBits ∧ x ∈ b.frameBits := by
  simp [shareBit]

/-- `checkMessage` answers the slot that the table of R232 gives, and nothing where the table names none. -/
theorem checkMessage_spec (s : State) (i code : Nat) :
    (∀ slot, FailsCheck s i code slot → checkMessage s i code = some (BitVec.ofNat 8 slot)) ∧
    ((∀ slot, ¬ FailsCheck s i code slot) → checkMessage s i code = none) := by
  have slotted : ∀ {n : Nat} {f : Nat → Bool} {p : Nat → Prop}, (∀ j, f j = true ↔ p j) →
      (∀ slot, LowestSlot n p slot → lowestFailing n f = some (BitVec.ofNat 8 slot)) ∧
      ((∀ slot, ¬ LowestSlot n p slot) → lowestFailing n f = none) :=
    fun hp => ⟨fun _ h => lowestFailing_some hp h, fun h => lowestFailing_none_of hp h⟩
  have plain : ∀ {b : Bool} {p : Prop}, (b = true ↔ p) →
      (∀ slot, slot = 0xFF ∧ p → failsWithoutSlot b = some (BitVec.ofNat 8 slot)) ∧
      ((∀ slot, ¬ (slot = 0xFF ∧ p)) → failsWithoutSlot b = none) :=
    fun hp => ⟨fun _ h => failsWithoutSlot_some hp h, fun h => failsWithoutSlot_none_of hp h⟩
  unfold checkMessage FailsCheck
  split
  · exact plain (by simp [Config.maxLen])
  · exact plain (by simp [Config.maxSigs, Config.nsig])
  · exact slotted fun j => by rw [Bool.or_eq_true, decide_eq_true_iff, decide_eq_true_iff]; rfl
  · exact slotted fun j => by rw [decide_eq_true_iff, bv_eq_zero_toInt]
  · exact slotted fun j => by
      rw [Bool.or_eq_true, decide_eq_true_iff, decide_eq_true_iff, bv_eq_zero_toNat, bv_eq_zero_toNat]
  · exact slotted fun j => by simp
  · exact slotted fun j => by simp [shareBit_true]
  · exact plain (by simp)
  · exact plain (by simp)
  · refine plain ?_
    simp only [Bool.and_eq_true, decide_eq_true_iff, and_assoc]
    exact and_congr_right fun _ => and_congr_right fun _ => by omega
  · exact plain (by simp)
  · exact plain (by simp [Config.maxCntW])
  · exact plain (by simp [MsgDesc.counterWithin])
  · exact plain (by simp [duplicateAddress, and_assoc])
  · exact ⟨fun _ h => h.elim, fun _ => by simp_all⟩

/-- The table has 14 checks, and every slot in it fits the field `SLOT`. -/
theorem FailsCheck.bounds {s : State} {i code slot : Nat} (h : FailsCheck s i code slot) :
    1 ≤ code ∧ code ≤ 14 ∧ slot < 256 := by
  unfold FailsCheck at h
  have := (s.msg i).sigCount.isLt
  split at h
  case h_15 => exact h.elim
  all_goals have := h.1; omega

/-! ### What the catalog decides -/

/-- What `LOCK` finds depends on the descriptors and the channels alone. -/
theorem lockFailure_congr {s t : State} (hm : t.msgs = s.msgs) (hs : t.sigs = s.sigs) (hc : t.chans = s.chans) :
    lockFailure t = lockFailure s := by
  have e1 : ∀ i, t.msg i = s.msg i := fun i => by rw [State.msg, State.msg, hm]
  have e2 : ∀ m, t.signalOf m = s.signalOf m := fun m => by
    funext j
    rw [State.signalOf, State.signalOf, State.sig, State.sig, hs]
  have e3 : ∀ c, t.chan c = s.chan c := fun c => by rw [State.chan, State.chan, hc]
  have e4 : messageFailure t = messageFailure s := by
    funext i
    simp only [messageFailure, checkMessage, duplicateAddress, e1, e2]
  have e5 : channelFailure t = channelFailure s := by
    funext c
    simp only [channelFailure, e3]
  rw [lockFailure, lockFailure, e4, e5]

end Sys2Proof.Machine
end

