-- ==== Sys2Proof/Laws/Window.lean ====
section
/-! SUPPORT. The address map region by region (20_memory R74), and what a host read and a host write come to. -/

namespace Sys2Proof.Machine

/-! ### The address map -/

theorem target_global {n : Nat} (h : n < 0x100) : target n = globalTarget n := if_pos h

theorem target_fbuf {n : Nat} (h1 : 0x100 ≤ n) (h2 : n < 0x140) : target n = .fbuf ((n - 0x100) / 4) := by
  unfold target; split_ifs <;> first | rfl | omega

theorem target_gap_fbuf {n : Nat} (h1 : 0x140 ≤ n) (h2 : n < 0x1000) : target n = .reserved := by
  unfold target; split_ifs <;> first | rfl | omega

theorem target_val {n : Nat} (h1 : 0x1000 ≤ n) (h2 : n < 0x2000) :
    target n = .val ((n - 0x1000) / 64) (n % 64 / 4) := by
  unfold target; split_ifs <;> first | rfl | omega

theorem target_msg {n : Nat} (h1 : 0x2000 ≤ n) (h2 : n < 0x2800) :
    target n = .msg ((n - 0x2000) / 32) (n % 32 / 4) := by
  unfold target; split_ifs <;> first | rfl | omega

theorem target_gap_msg {n : Nat} (h1 : 0x2800 ≤ n) (h2 : n < 0x4000) : target n = .reserved := by
  unfold target; split_ifs <;> first | rfl | omega

theorem target_sig {n : Nat} (h1 : 0x4000 ≤ n) (h2 : n < 0x8000) :
    target n = .sig ((n - 0x4000) / 32) (n % 32 / 4) := by
  unfold target; split_ifs <;> first | rfl | omega

theorem target_chan {n : Nat} (h1 : 0x8000 ≤ n) (h2 : n < 0x8080) :
    target n = .chan ((n - 0x8000) / 64) (n % 64 / 4) := by
  unfold target; split_ifs <;> first | rfl | omega

theorem target_gap_chan {n : Nat} (h : 0x8080 ≤ n) : target n = .reserved := by
  unfold target; split_ifs <;> first | rfl | omega

/-- Word `w` of an entry of a register file, at its offset in the map. -/
theorem target_val_word {j w : Nat} (hj : j < 64) (hw : w < 16) : target (0x1000 + 64 * j + 4 * w) = .val j w := by
  rw [target_val (by omega) (by omega)]
  congr 1 <;> omega

theorem target_msg_word {i w : Nat} (hi : i < 64) (hw : w < 8) : target (0x2000 + 32 * i + 4 * w) = .msg i w := by
  rw [target_msg (by omega) (by omega)]
  congr 1 <;> omega

theorem target_sig_word {k w : Nat} (hk : k < 512) (hw : w < 8) : target (0x4000 + 32 * k + 4 * w) = .sig k w := by
  rw [target_sig (by omega) (by omega)]
  congr 1 <;> omega

theorem target_chan_word {c w : Nat} (hc : c < 2) (hw : w < 16) : target (0x8000 + 64 * c + 4 * w) = .chan c w := by
  rw [target_chan (by omega) (by omega)]
  congr 1 <;> omega

/-- Every offset is in one region. -/
theorem offset_regions (n : Nat) :
    n < 0x100 ∨ (0x100 ≤ n ∧ n < 0x140) ∨ (0x140 ≤ n ∧ n < 0x1000) ∨ (0x1000 ≤ n ∧ n < 0x2000) ∨
      (0x2000 ≤ n ∧ n < 0x2800) ∨ (0x2800 ≤ n ∧ n < 0x4000) ∨ (0x4000 ≤ n ∧ n < 0x8000) ∨
      (0x8000 ≤ n ∧ n < 0x8080) ∨ 0x8080 ≤ n := by
  omega

theorem globalTarget_frozen : ∀ n : Fin 0x100, (globalTarget n).frozen = false := by decide +kernel

theorem globalTarget_readable : ∀ n : Fin 0x100,
    n.val % 4 = 0 → ((globalTarget n).readableWhileBusy = true ↔ n.val ≤ 0x10 ∨ 0x34 ≤ n.val) := by decide +kernel

theorem globalTarget_reserved : ∀ n : Fin 0x100, 0x34 ≤ n.val → globalTarget n = .reserved := by decide +kernel

theorem globalTarget_ctrl : ∀ n : Fin 0x100, globalTarget n = .ctrl ↔ n.val = 0x008 := by decide +kernel

theorem globalTarget_status : ∀ n : Fin 0x100, globalTarget n = .status ↔ n.val = 0x00C := by decide +kernel

/-- `CTRL` is at one offset. -/
theorem target_ctrl_iff (n : Nat) : target n = .ctrl ↔ n = 0x008 := by
  rcases offset_regions n with h | h | h | h | h | h | h | h | h
  · rw [target_global h]; exact globalTarget_ctrl ⟨n, h⟩
  · rw [target_fbuf h.1 h.2]; simp; omega
  · rw [target_gap_fbuf h.1 h.2]; simp; omega
  · rw [target_val h.1 h.2]; simp; omega
  · rw [target_msg h.1 h.2]; simp; omega
  · rw [target_gap_msg h.1 h.2]; simp; omega
  · rw [target_sig h.1 h.2]; simp; omega
  · rw [target_chan h.1 h.2]; simp; omega
  · rw [target_gap_chan h]; simp; omega

/-- `STATUS` is at one offset. -/
theorem target_status_iff (n : Nat) : target n = .status ↔ n = 0x00C := by
  rcases offset_regions n with h | h | h | h | h | h | h | h | h
  · rw [target_global h]; exact globalTarget_status ⟨n, h⟩
  · rw [target_fbuf h.1 h.2]; simp; omega
  · rw [target_gap_fbuf h.1 h.2]; simp; omega
  · rw [target_val h.1 h.2]; simp; omega
  · rw [target_msg h.1 h.2]; simp; omega
  · rw [target_gap_msg h.1 h.2]; simp; omega
  · rw [target_sig h.1 h.2]; simp; omega
  · rw [target_chan h.1 h.2]; simp; omega
  · rw [target_gap_chan h]; simp; omega

/-! ### Host reads and writes -/

/-- A host read changes the reply, and the draw counter if it draws a free value. -/
theorem State.hostRead_cases (s : State) (off : Nat) :
    s.hostRead off = { s with reply := .data (s.readTarget (target off)) } ∨
      s.hostRead off = { s with reply := .data (Config.busyRead s.draws), draws := s.draws + 1 } := by
  unfold State.hostRead
  split
  · exact .inr rfl
  · exact .inl rfl

theorem State.dropsWrite_iff (s : State) (t : Target) :
    s.dropsWrite t = true ↔
      (s.busy = true ∧ t ≠ .ctrl ∧ t ≠ .status) ∨ (s.locked = true ∧ t.frozen = true) := by
  simp [State.dropsWrite]

theorem State.hostWrite_dropped {s : State} {off : Nat} {v : Word} (h : s.dropsWrite (target off) = true) :
    s.hostWrite off v = { s with wdrop := true, reply := .written } := by
  simp [State.hostWrite, h]

theorem State.hostWrite_carried_out {s : State} {off : Nat} {v : Word} (h : s.dropsWrite (target off) = false) :
    s.hostWrite off v = { s.writeTarget (target off) v with reply := .written } := by
  simp [State.hostWrite, h]

/-- A host write of a channel's words keeps its LimiterState (10_state R46). -/
theorem Channel.setWord_keeps (c : Channel) (w : Nat) (v : Word) :
    (c.setWord w v).last = c.last ∧ (c.setWord w v).errAcc = c.errAcc ∧ (c.setWord w v).temp = c.temp ∧
      (c.setWord w v).perm = c.perm ∧ (c.setWord w v).ovr = c.ovr := by
  unfold Channel.setWord
  split <;> exact ⟨rfl, rfl, rfl, rfl, rfl⟩

end Sys2Proof.Machine
end

