-- ==== Sys2Proof/Laws/Offsets.lean ====
section
/-! SUPPORT. What the offset of a word says of its target: where the frozen words, the reserved words and the words readable
while a command runs are (20_memory R68, R70, R71), and that no two offsets name one register. -/

namespace Sys2Proof.Machine

theorem target_cmd_iff (n : Nat) : target n = .cmd ↔ n = 0x010 := by
  have small : ∀ n : Fin 0x100, globalTarget n = .cmd ↔ n.val = 0x010 := by decide +kernel
  by_cases h : n < 0x100
  · rw [target_global h]; exact small ⟨n, h⟩
  · constructor
    · unfold target; split_ifs <;> simp
    · omega

/-- The frozen words are those of R70's second case. -/
theorem target_frozen_iff {n : Nat} (h4 : n % 4 = 0) : (target n).frozen = true ↔ frozenOffset n := by
  unfold frozenOffset
  rcases offset_regions n with h | h | h | h | h | h | h | h | h
  · rw [target_global h, globalTarget_frozen ⟨n, h⟩]; simp; omega
  · rw [target_fbuf h.1 h.2]; simp [Target.frozen]; omega
  · rw [target_gap_fbuf h.1 h.2]; simp [Target.frozen]; omega
  · rw [target_val h.1 h.2]; simp [Target.frozen]; omega
  · rw [target_msg h.1 h.2]; simp [Target.frozen]; omega
  · rw [target_gap_msg h.1 h.2]; simp [Target.frozen]; omega
  · rw [target_sig h.1 h.2]; simp [Target.frozen]; omega
  · rw [target_chan h.1 h.2]; simp [Target.frozen]; omega
  · rw [target_gap_chan h]; simp [Target.frozen]; omega

/-- The target is a reserved word. -/
def Target.isReserved : Target → Bool
  | .reserved => true
  | .val _ w => decide (9 ≤ w)
  | .msg _ w => decide (6 ≤ w)
  | .sig _ w => decide (5 ≤ w)
  | .chan _ w => decide (12 ≤ w)
  | _ => false

theorem target_isReserved_iff {n : Nat} (h4 : n % 4 = 0) : (target n).isReserved = true ↔ reservedOffset n := by
  have small : ∀ n : Fin 0x100, n.val % 4 = 0 → ((globalTarget n).isReserved = true ↔ 0x34 ≤ n.val) := by decide +kernel
  unfold reservedOffset
  rcases offset_regions n with h | h | h | h | h | h | h | h | h
  · rw [target_global h, small ⟨n, h⟩ h4]; simp only; omega
  · rw [target_fbuf h.1 h.2]; simp [Target.isReserved]; omega
  · rw [target_gap_fbuf h.1 h.2]; simp [Target.isReserved]; omega
  · rw [target_val h.1 h.2]; simp [Target.isReserved]; omega
  · rw [target_msg h.1 h.2]; simp [Target.isReserved]; omega
  · rw [target_gap_msg h.1 h.2]; simp [Target.isReserved]; omega
  · rw [target_sig h.1 h.2]; simp [Target.isReserved]; omega
  · rw [target_chan h.1 h.2]; simp [Target.isReserved]; omega
  · rw [target_gap_chan h]; simp [Target.isReserved]; omega

/-- The words readable while a command runs: those that R71 lists, and the reserved ones. -/
theorem target_readable_iff {n : Nat} (h4 : n % 4 = 0) :
    (target n).readableWhileBusy = true ↔ n ≤ 0x010 ∨ frozenOffset n ∨ reservedOffset n := by
  unfold frozenOffset reservedOffset
  rcases offset_regions n with h | h | h | h | h | h | h | h | h
  · rw [target_global h, globalTarget_readable ⟨n, h⟩ h4]; simp only; omega
  · rw [target_fbuf h.1 h.2]; simp [Target.readableWhileBusy]; omega
  · rw [target_gap_fbuf h.1 h.2]; simp [Target.readableWhileBusy]; omega
  · rw [target_val h.1 h.2]; simp [Target.readableWhileBusy]; omega
  · rw [target_msg h.1 h.2]; simp [Target.readableWhileBusy]; omega
  · rw [target_gap_msg h.1 h.2]; simp [Target.readableWhileBusy]; omega
  · rw [target_sig h.1 h.2]; simp [Target.readableWhileBusy]; omega
  · rw [target_chan h.1 h.2]; simp [Target.readableWhileBusy]; omega
  · rw [target_gap_chan h]; simp [Target.readableWhileBusy]; omega

/-- A reserved word reads 0, and a write of it changes nothing (R68). -/
theorem Target.isReserved_reads_zero {x : Target} (h : x.isReserved = true) (s : State) : s.readTarget x = 0 := by
  cases x <;> simp [Target.isReserved] at h <;> simp only [State.readTarget] <;>
    simp only [Slot.word, MsgDesc.word, SigDesc.word, Channel.word] <;> split <;> first | rfl | omega

/-! ### One register, one offset -/

/-- The offset of a register. -/
def Target.offset : Target → Nat
  | .params0 => 0x000
  | .params1 => 0x004
  | .ctrl => 0x008
  | .status => 0x00C
  | .cmd => 0x010
  | .errInfo => 0x014
  | .result0 => 0x018
  | .result1 => 0x01C
  | .flen => 0x020
  | .arg0 => 0x024
  | .arg1 => 0x028
  | .arg2 => 0x02C
  | .arg3 => 0x030
  | .fbuf w => 0x100 + 4 * w
  | .val j w => 0x1000 + 64 * j + 4 * w
  | .msg i w => 0x2000 + 32 * i + 4 * w
  | .sig k w => 0x4000 + 32 * k + 4 * w
  | .chan c w => 0x8000 + 64 * c + 4 * w
  | .reserved => 0

theorem offset_target {n : Nat} (h4 : n % 4 = 0) (hr : target n ≠ .reserved) : (target n).offset = n := by
  have small : ∀ n : Fin 0x100, globalTarget n ≠ .reserved → (globalTarget n).offset = n.val := by decide +kernel
  rcases offset_regions n with h | h | h | h | h | h | h | h | h
  · rw [target_global h] at hr ⊢; exact small ⟨n, h⟩ hr
  · rw [target_fbuf h.1 h.2]; simp only [Target.offset]; omega
  · exact absurd (target_gap_fbuf h.1 h.2) hr
  · rw [target_val h.1 h.2]; simp only [Target.offset]; omega
  · rw [target_msg h.1 h.2]; simp only [Target.offset]; omega
  · exact absurd (target_gap_msg h.1 h.2) hr
  · rw [target_sig h.1 h.2]; simp only [Target.offset]; omega
  · rw [target_chan h.1 h.2]; simp only [Target.offset]; omega
  · exact absurd (target_gap_chan h) hr

/-- Two offsets name one target only if it is the reserved one. -/
theorem target_inj {n m : Nat} (hn : n % 4 = 0) (hm : m % 4 = 0) (h : target n = target m) :
    n = m ∨ target n = .reserved := by
  by_cases hr : target n = .reserved
  · exact .inr hr
  · have e := offset_target hn hr
    rw [h, offset_target hm (h ▸ hr)] at e
    exact .inl e.symm

end Sys2Proof.Machine
end

