-- ==== Sys2Proof/Laws/PerInstr.lean ====
section
/-! SUPPORT. A statement about every command as syntax, proved constructor by constructor: the word of a command is covered by
the row of the opcode map that bears its mnemonic (30_encoding R95, R100). -/

namespace Sys2Proof.Laws.EncodedInItsRow

/-- Some row of the opcode map with the command's mnemonic covers the command's word. -/
def Statement (i : Instr) : Prop := ∃ r ∈ opcodeMap, r.mnemonic = mnemonicOf i ∧ r.covers (encode i) = true

/-- Of a command word, a mask that keeps `OP` and the reserved field leaves the opcode. -/
theorem commandWord_masked (op : Byte) (idx : Nat) (clr : Bool) :
    commandWord op idx clr &&& 0xFFFE00FF#32 = op.setWidth 32 := by
  have mask : ∀ i < 32, (0xFFFE00FF#32).getLsbD i = (decide (i < 8) || decide (17 ≤ i)) := by decide
  apply BitVec.eq_of_getLsbD_eq
  intro i hi
  unfold commandWord
  rw [BitVec.getLsbD_and, mask i hi]
  by_cases h1 : i < 8
  · simp [h1, show i < 16 by omega]
  · by_cases h2 : 17 ≤ i
    · simp [h1, h2, BitVec.getLsbD_of_ge op i (by omega),
        BitVec.getLsbD_of_ge (BitVec.ofNat 8 idx) (i - 8) (by omega), show ¬ i - 16 = 0 by omega]
    · simp [h1, h2, BitVec.getLsbD_of_ge op i (by omega)]

/-- With `CLR = 0` the mask may keep bit 16 as well. -/
theorem commandWord_masked_clr (op : Byte) (idx : Nat) :
    commandWord op idx false &&& 0xFFFF00FF#32 = op.setWidth 32 := by
  have mask : ∀ i < 32, (0xFFFF00FF#32).getLsbD i = (decide (i < 8) || decide (16 ≤ i)) := by decide
  apply BitVec.eq_of_getLsbD_eq
  intro i hi
  unfold commandWord
  rw [BitVec.getLsbD_and, mask i hi]
  by_cases h1 : i < 8
  · simp [h1]
  · by_cases h2 : 16 ≤ i
    · simp [h1, h2, BitVec.getLsbD_of_ge op i (by omega),
        BitVec.getLsbD_of_ge (BitVec.ofNat 8 idx) (i - 8) (by omega)]
    · simp [h1, h2, BitVec.getLsbD_of_ge op i (by omega)]

theorem covers_of_masked {name : String} {pattern mask w : Word} (h : w &&& mask = pattern) :
    (⟨name, pattern, mask⟩ : OpcodeRow).covers w = true := by
  simpa [OpcodeRow.covers] using h

theorem nop : Statement .nop := ⟨_, List.mem_of_getElem? (i := 0) rfl, rfl, by decide⟩

theorem encode (idx : Nat) (clr : Bool) : Statement (.encode idx clr) :=
  ⟨_, List.mem_of_getElem? (i := 1) rfl, rfl, covers_of_masked (commandWord_masked 0x01 idx clr)⟩

theorem decode (idx : Nat) : Statement (.decode idx) :=
  ⟨_, List.mem_of_getElem? (i := 2) rfl, rfl, covers_of_masked (commandWord_masked_clr 0x02 idx)⟩

theorem cscomp (idx : Nat) : Statement (.cscomp idx) :=
  ⟨_, List.mem_of_getElem? (i := 3) rfl, rfl, covers_of_masked (commandWord_masked_clr 0x03 idx)⟩

theorem csins (idx : Nat) : Statement (.csins idx) :=
  ⟨_, List.mem_of_getElem? (i := 4) rfl, rfl, covers_of_masked (commandWord_masked_clr 0x04 idx)⟩

theorem csval (idx : Nat) : Statement (.csval idx) :=
  ⟨_, List.mem_of_getElem? (i := 5) rfl, rfl, covers_of_masked (commandWord_masked_clr 0x05 idx)⟩

theorem cntrd (idx : Nat) : Statement (.cntrd idx) :=
  ⟨_, List.mem_of_getElem? (i := 6) rfl, rfl, covers_of_masked (commandWord_masked_clr 0x06 idx)⟩

theorem cntwr (idx : Nat) : Statement (.cntwr idx) :=
  ⟨_, List.mem_of_getElem? (i := 7) rfl, rfl, covers_of_masked (commandWord_masked_clr 0x07 idx)⟩

theorem cntnxt (idx : Nat) : Statement (.cntnxt idx) :=
  ⟨_, List.mem_of_getElem? (i := 8) rfl, rfl, covers_of_masked (commandWord_masked_clr 0x08 idx)⟩

theorem lookup : Statement .lookup := ⟨_, List.mem_of_getElem? (i := 9) rfl, rfl, by decide⟩

theorem vclr : Statement .vclr := ⟨_, List.mem_of_getElem? (i := 10) rfl, rfl, by decide⟩

theorem lock : Statement .lock := ⟨_, List.mem_of_getElem? (i := 11) rfl, rfl, by decide⟩

theorem lstep (idx : Nat) : Statement (.lstep idx) :=
  ⟨_, List.mem_of_getElem? (i := 12) rfl, rfl, covers_of_masked (commandWord_masked_clr 0x10 idx)⟩

theorem lrst (idx : Nat) : Statement (.lrst idx) :=
  ⟨_, List.mem_of_getElem? (i := 13) rfl, rfl, covers_of_masked (commandWord_masked_clr 0x11 idx)⟩

end Sys2Proof.Laws.EncodedInItsRow
end

