-- ==== Sys2Proof/Laws/Words.lean ====
section
/-! SUPPORT. The words of an entry of a register file and its fields are one another's inverse: an entry is the one its words
say, and a host write of one word is that word replaced (10_state R33 to R46). -/

namespace Sys2Proof.Machine

theorem CsAlg.ofBits_toBits (a : CsAlg) : CsAlg.ofBits a.toBits = a := by cases a <;> rfl

/-- The numbering of `CS_ALG` in R37. -/
theorem CsAlg.ofBits_numbered (b : BitVec 2) :
    CsAlg.ofBits b = [CsAlg.none, .crc8, .passthrough, .counterOnly].getD b.toNat .none := by
  revert b
  decide

theorem MsgDesc.ext_iff {a b : MsgDesc} : a = b ↔
    a.en = b.en ∧ a.csAlg = b.csAlg ∧ a.cntEn = b.cntEn ∧ a.len = b.len ∧ a.sigCount = b.sigCount ∧ a.addr = b.addr ∧
      a.bus = b.bus ∧ a.sigFirst = b.sigFirst ∧ a.csStart = b.csStart ∧ a.csEnd = b.csEnd ∧ a.csExcl = b.csExcl ∧
      a.csPos = b.csPos ∧ a.csFxor = b.csFxor ∧ a.cntStart = b.cntStart ∧ a.cntW = b.cntW ∧ a.cntBe = b.cntBe := by
  cases a; cases b; simp

theorem SigDesc.ext_iff {a b : SigDesc} : a = b ↔
    a.start = b.start ∧ a.length = b.length ∧ a.signed = b.signed ∧ a.be = b.be ∧ a.scaleNum = b.scaleNum ∧
      a.scaleDen = b.scaleDen ∧ a.offNum = b.offNum ∧ a.offDen = b.offDen := by
  cases a; cases b; simp

theorem Channel.ext_iff {a b : Channel} : a = b ↔
    a.max = b.max ∧ a.deltaUp = b.deltaUp ∧ a.deltaDown = b.deltaDown ∧ a.drvAllow = b.drvAllow ∧
      a.drvMult = b.drvMult ∧ a.drvFactor = b.drvFactor ∧ a.errThresh = b.errThresh ∧ a.errMax = b.errMax ∧
      a.en = b.en ∧ a.fbSel = b.fbSel ∧ a.last = b.last ∧ a.errAcc = b.errAcc ∧ a.temp = b.temp ∧ a.perm = b.perm ∧
      a.ovr = b.ovr := by
  cases a; cases b; simp

theorem Slot.ext_iff {a b : Slot} : a = b ↔
    a.num = b.num ∧ a.den = b.den ∧ a.raw = b.raw ∧ a.present = b.present ∧ a.oor = b.oor ∧ a.rawIn = b.rawIn := by
  cases a; cases b; simp

theorem MsgDesc.ofWords_word (m : MsgDesc) : MsgDesc.ofWords m.word = m := by
  have alg : ∀ b : BitVec 2, (m.word 0).extractLsb' 1 2 = b → b = m.csAlg.toBits := by
    rintro _ rfl
    simp only [MsgDesc.word]
    apply BitVec.eq_of_getLsbD_eq
    intro i hi
    interval_cases i <;> simp [flagBit, fieldAt]
  unfold MsgDesc.ofWords
  rw [alg _ rfl, ← CsAlg.ofBits_numbered, CsAlg.ofBits_toBits]
  cases m
  congr 1 <;> simp only [MsgDesc.word] <;> first
    | rfl
    | (simp [flagBit, fieldAt]; done)
    | (apply BitVec.eq_of_getLsbD_eq; intro i hi; interval_cases i <;> simp [flagBit, fieldAt])

theorem SigDesc.ofWords_word (d : SigDesc) : SigDesc.ofWords d.word = d := by
  unfold SigDesc.ofWords
  cases d
  congr 1 <;> simp only [SigDesc.word] <;> first
    | rfl
    | (simp [flagBit, fieldAt]; done)
    | (apply BitVec.eq_of_getLsbD_eq; intro i hi; interval_cases i <;> simp [flagBit, fieldAt])

theorem Channel.ofWords_word (c : Channel) : Channel.ofWords c.word = c := by
  unfold Channel.ofWords
  cases c
  congr 1 <;> simp [Channel.word, Channel.cfgWord, Channel.flagsWord, flagBit]

theorem getWord_append2 (x : BitVec 64) : getWord x 1 ++ getWord x 0 = x := by
  apply BitVec.eq_of_getLsbD_eq
  intro i hi
  simp only [getWord, BitVec.getLsbD_append, BitVec.getLsbD_extractLsb']
  split
  · simp [*]
  · rw [show 32 * 1 + (i - 32) = i by omega]; simp; omega

theorem getWord_append4 (x : BitVec 128) : getWord x 3 ++ getWord x 2 ++ getWord x 1 ++ getWord x 0 = x := by
  apply BitVec.eq_of_getLsbD_eq
  intro i hi
  simp only [getWord, BitVec.getLsbD_append, BitVec.getLsbD_extractLsb']
  split_ifs
  · simp [*]
  · rw [show 32 * 1 + (i - 32) = i by omega]; simp; omega
  · rw [show 32 * 2 + (i - 32 - 32) = i by omega]; simp; omega
  · rw [show 32 * 3 + (i - 32 - 32 - 32) = i by omega]; simp; omega

theorem Slot.ofWords_word (v : Slot) : Slot.ofWords v.word = v := by
  unfold Slot.ofWords
  simp only [Slot.word, getWord_append2, getWord_append4]
  cases v
  simp [Slot.vflagsWord, flagBit]

/-- A word of a wide register that a host write puts in is the one the host reads back; the others stay (20_memory R66). -/
theorem getWord_putWord {n : Nat} (x : BitVec n) (j k : Nat) (v : Word) (hj : 32 * j + 32 ≤ n) (hk : 32 * k + 32 ≤ n) :
    getWord (putWord x k v) j = if j = k then v else getWord x j := by
  apply BitVec.eq_of_getLsbD_eq
  intro i hi
  have hij : 32 * j + i < n := by omega
  by_cases h : j = k
  · subst h
    simp [getWord, putWord, hij, hi, -BitVec.reduceAllOnes]
  · simp only [if_neg h]
    rcases Nat.lt_or_gt_of_ne h with h | h
    · simp [getWord, putWord, hij, hi, show 32 * j + i < 32 * k by omega]
    · simp [getWord, putWord, hij, hi, show ¬ 32 * j + i < 32 * k by omega, show ¬ 32 * j + i - 32 * k < 32 by omega,
        BitVec.getLsbD_of_ge v (32 * j + i - 32 * k) (by omega), -BitVec.reduceAllOnes]

/-- A host write of a message descriptor's word. -/
theorem MsgDesc.setWord_eq (m : MsgDesc) (w : Nat) (v : Word) :
    m.setWord w v = .ofWords (Function.update m.word w v) := by
  have base := m.ofWords_word
  simp only [MsgDesc.ofWords, MsgDesc.ext_iff] at base
  rcases w with _ | _ | _ | _ | _ | _ | w <;>
    simp only [MsgDesc.setWord, MsgDesc.ofWords, MsgDesc.ext_iff, Function.update_apply, CsAlg.ofBits_numbered] <;>
    simp only [base, reduceIte, zero_add, Nat.reduceAdd, Nat.reduceEqDiff, reduceCtorEq, and_self]

/-- A host write of a signal descriptor's word. -/
theorem SigDesc.setWord_eq (d : SigDesc) (w : Nat) (v : Word) :
    d.setWord w v = .ofWords (Function.update d.word w v) := by
  have base := d.ofWords_word
  simp only [SigDesc.ofWords, SigDesc.ext_iff] at base
  rcases w with _ | _ | _ | _ | _ | w <;>
    simp only [SigDesc.setWord, SigDesc.ofWords, SigDesc.ext_iff, Function.update_apply] <;>
    simp only [base, reduceIte, zero_add, Nat.reduceAdd, Nat.reduceEqDiff, reduceCtorEq, and_self]

/-- A host write of a channel's configuration word; the other words are read-only (10_state R46). -/
theorem Channel.setWord_eq (c : Channel) (w : Nat) (v : Word) :
    c.setWord w v = if w ≤ 8 then .ofWords (Function.update c.word w v) else c := by
  have base := c.ofWords_word
  simp only [Channel.ofWords, Channel.ext_iff] at base
  rcases Nat.lt_or_ge 8 w with h | h
  · rw [if_neg (by omega)]
    unfold Channel.setWord
    split <;> first | rfl | omega
  · rw [if_pos h]
    interval_cases w <;>
      simp [-BitVec.getLsbD_eq_getElem, Channel.setWord, Channel.ofWords, base]

/-- A host write of a value slot's word; `OOR` is read-only (10_state R36). -/
theorem Slot.setWord_eq (v : Slot) (w : Nat) (x : Word) :
    v.setWord w x = { Slot.ofWords (Function.update v.word w x) with oor := v.oor } := by
  have base := v.ofWords_word
  simp only [Slot.ofWords, Slot.ext_iff] at base
  have num : ∀ y : BitVec 128, y = getWord y 3 ++ getWord y 2 ++ getWord y 1 ++ getWord y 0 :=
    fun y => (getWord_append4 y).symm
  have wide : ∀ y : BitVec 64, y = getWord y 1 ++ getWord y 0 := fun y => (getWord_append2 y).symm
  rcases w with _ | _ | _ | _ | _ | _ | _ | _ | _ | w <;>
    simp [-BitVec.getLsbD_eq_getElem, Slot.setWord, Slot.ofWords, Slot.ext_iff, base]
  all_goals first
    | (rw [num (putWord _ _ _)]; simp [getWord_putWord]; rfl)
    | (rw [wide (putWord _ _ _)]; simp [getWord_putWord]; rfl)

/-! ### The words of an entry in the window -/

theorem MsgDesc.ofWords_congr {x y : Nat → Word} (h : ∀ w < 8, x w = y w) : MsgDesc.ofWords x = .ofWords y := by
  simp only [MsgDesc.ofWords, h 0 (by decide), h 1 (by decide), h 2 (by decide), h 3 (by decide), h 4 (by decide),
    h 5 (by decide)]

theorem SigDesc.ofWords_congr {x y : Nat → Word} (h : ∀ w < 8, x w = y w) : SigDesc.ofWords x = .ofWords y := by
  simp only [SigDesc.ofWords, h 0 (by decide), h 1 (by decide), h 2 (by decide), h 3 (by decide), h 4 (by decide)]

theorem Channel.ofWords_congr {x y : Nat → Word} (h : ∀ w < 16, x w = y w) : Channel.ofWords x = .ofWords y := by
  simp [Channel.ofWords, h]

theorem Slot.ofWords_congr {x y : Nat → Word} (h : ∀ w < 16, x w = y w) : Slot.ofWords x = .ofWords y := by
  simp [Slot.ofWords, h]

theorem State.wordsAt_msg (s : State) {i : Nat} (hi : i < 64) :
    ∀ w < 8, s.wordsAt (0x2000 + 32 * i) w = (s.msg i).word w := by
  intro w hw
  rw [State.wordsAt, target_msg_word hi hw, State.readTarget]

theorem State.wordsAt_sig (s : State) {k : Nat} (hk : k < 512) :
    ∀ w < 8, s.wordsAt (0x4000 + 32 * k) w = (s.sig k).word w := by
  intro w hw
  rw [State.wordsAt, target_sig_word hk hw, State.readTarget]

theorem State.wordsAt_chan (s : State) {c : Nat} (hc : c < 2) :
    ∀ w < 16, s.wordsAt (0x8000 + 64 * c) w = (s.chan c).word w := by
  intro w hw
  rw [State.wordsAt, target_chan_word hc hw, State.readTarget]

theorem State.wordsAt_slot (s : State) {j : Nat} (hj : j < 64) :
    ∀ w < 16, s.wordsAt (0x1000 + 64 * j) w = (s.slot j).word w := by
  intro w hw
  rw [State.wordsAt, target_val_word hj hw, State.readTarget]

end Sys2Proof.Machine
end

