-- ==== Sys2Proof/Laws/Readback.lean ====
section
/-! SUPPORT. Reading a register after a host write: the word written reads back its stored bits and keeps the others, and every
other register keeps its value (20_memory R68, R69). -/

namespace Sys2Proof.Machine

/-- The stored bits of a word written, the other bits kept. -/
def merged (bits new old : Word) : Word := (new &&& bits) ||| (old &&& ~~~bits)

theorem merged_all (new old : Word) : merged 0xFFFFFFFF#32 new old = new := by
  apply BitVec.eq_of_getLsbD_eq
  intro i hi
  interval_cases i <;> simp [merged]

theorem merged_none (new old : Word) : merged 0#32 new old = old := by
  apply BitVec.eq_of_getLsbD_eq
  intro i hi
  interval_cases i <;> simp [merged]

/-! ### The words of an entry -/

theorem Slot.word_setWord_same (v : Slot) (w : Nat) (x : Word) :
    (v.setWord w x).word w = merged (Target.val 0 w).storedBits x (v.word w) := by
  rcases Nat.lt_or_ge 8 w with h | h
  · have keep : v.setWord w x = v := by unfold Slot.setWord; split <;> first | rfl | omega
    rw [keep, Target.storedBits, if_neg (by omega), if_neg (by omega)]
    exact (merged_none ..).symm
  · interval_cases w
    rotate_left 8
    · apply BitVec.eq_of_getLsbD_eq
      intro i hi
      interval_cases i <;> simp [merged, Target.storedBits, Slot.setWord, Slot.word, Slot.vflagsWord, flagBit]
    all_goals simp [Target.storedBits, merged_all, Slot.setWord, Slot.word, getWord_putWord]

theorem Slot.word_setWord_other (v : Slot) {w w' : Nat} (x : Word) (h : w' ≠ w) : (v.setWord w x).word w' = v.word w' := by
  unfold Slot.setWord
  split <;> unfold Slot.word <;> split <;> first
    | exact absurd rfl h
    | simp [getWord_putWord, Slot.vflagsWord]

/-- Word 0 of a message descriptor, `MSG_CFG`. -/
theorem MsgDesc.config_setWord (m : MsgDesc) (x : Word) : (m.setWord 0 x).word 0 = merged 0x00FFFF0F#32 x (m.word 0) := by
  have alg : (CsAlg.ofBits (x.extractLsb' 1 2)).toBits = x.extractLsb' 1 2 := by
    generalize x.extractLsb' 1 2 = b
    revert b
    decide
  apply BitVec.eq_of_getLsbD_eq
  intro i hi
  interval_cases i <;> simp [merged, MsgDesc.setWord, MsgDesc.word, flagBit, fieldAt, alg]

/-- Word 2 of a message descriptor, `MSG_MAP`. -/
theorem MsgDesc.map_setWord (m : MsgDesc) (x : Word) : (m.setWord 2 x).word 2 = merged 0xFFFF00FF#32 x (m.word 2) := by
  apply BitVec.eq_of_getLsbD_eq
  intro i hi
  interval_cases i <;> simp [merged, MsgDesc.setWord, MsgDesc.word, fieldAt]

/-- Word 3 of a message descriptor, `MSG_CS`. -/
theorem MsgDesc.checksum_setWord (m : MsgDesc) (x : Word) : (m.setWord 3 x).word 3 = x := by
  apply BitVec.eq_of_getLsbD_eq
  intro i hi
  interval_cases i <;> simp [MsgDesc.setWord, MsgDesc.word, fieldAt]

/-- Word 4 of a message descriptor, `MSG_CSX`. -/
theorem MsgDesc.finalXor_setWord (m : MsgDesc) (x : Word) : (m.setWord 4 x).word 4 = merged 0x000000FF#32 x (m.word 4) := by
  apply BitVec.eq_of_getLsbD_eq
  intro i hi
  interval_cases i <;> simp [merged, MsgDesc.setWord, MsgDesc.word, fieldAt]

/-- Word 5 of a message descriptor, `MSG_CNT`. -/
theorem MsgDesc.counter_setWord (m : MsgDesc) (x : Word) : (m.setWord 5 x).word 5 = merged 0x011FFFFF#32 x (m.word 5) := by
  apply BitVec.eq_of_getLsbD_eq
  intro i hi
  interval_cases i <;> simp [merged, MsgDesc.setWord, MsgDesc.word, flagBit, fieldAt]

theorem MsgDesc.word_setWord_same (m : MsgDesc) (w : Nat) (x : Word) :
    (m.setWord w x).word w = merged (Target.msg 0 w).storedBits x (m.word w) := by
  match w with
  | 0 => exact m.config_setWord x
  | 1 => exact (merged_all ..).symm
  | 2 => exact m.map_setWord x
  | 3 => exact (m.checksum_setWord x).trans (merged_all ..).symm
  | 4 => exact m.finalXor_setWord x
  | 5 => exact m.counter_setWord x
  | _ + 6 => exact (merged_none ..).symm

theorem MsgDesc.word_setWord_other (m : MsgDesc) {w w' : Nat} (x : Word) (h : w' ≠ w) :
    (m.setWord w x).word w' = m.word w' := by
  unfold MsgDesc.setWord
  split <;> unfold MsgDesc.word <;> split <;> first | rfl | exact absurd rfl h

theorem SigDesc.word_setWord_same (d : SigDesc) (w : Nat) (x : Word) :
    (d.setWord w x).word w = merged (Target.sig 0 w).storedBits x (d.word w) := by
  rcases w with _ | _ | _ | _ | _ | w
  · apply BitVec.eq_of_getLsbD_eq
    intro i hi
    interval_cases i <;> simp [merged, Target.storedBits, SigDesc.setWord, SigDesc.word, flagBit, fieldAt]
  all_goals first
    | exact (merged_all ..).symm
    | (rw [Target.storedBits, if_neg (by omega), if_neg (by omega)]; exact (merged_none ..).symm)

theorem SigDesc.word_setWord_other (d : SigDesc) {w w' : Nat} (x : Word) (h : w' ≠ w) :
    (d.setWord w x).word w' = d.word w' := by
  unfold SigDesc.setWord
  split <;> unfold SigDesc.word <;> split <;> first | rfl | exact absurd rfl h

theorem Channel.word_setWord_same (c : Channel) (w : Nat) (x : Word) :
    (c.setWord w x).word w = merged (Target.chan 0 w).storedBits x (c.word w) := by
  rcases Nat.lt_or_ge 8 w with h | h
  · have keep : c.setWord w x = c := by unfold Channel.setWord; split <;> first | rfl | omega
    rw [keep, Target.storedBits, if_neg (by omega), if_neg (by omega)]
    exact (merged_none ..).symm
  · interval_cases w
    rotate_left 8
    · apply BitVec.eq_of_getLsbD_eq
      intro i hi
      interval_cases i <;> simp [merged, Target.storedBits, Channel.setWord, Channel.word, Channel.cfgWord, flagBit]
    all_goals exact (merged_all ..).symm

theorem Channel.word_setWord_other (c : Channel) {w w' : Nat} (x : Word) (h : w' ≠ w) :
    (c.setWord w x).word w' = c.word w' := by
  unfold Channel.setWord
  split <;> unfold Channel.word <;> split <;> first | rfl | exact absurd rfl h

/-! ### The words of the frame buffer (20_memory R65) -/

theorem fbufWord_setWord_same (m : Memory) {w : Nat} (hw : w < 16) (v : Word) : fbufWord (fbufSetWord m w v) w = v := by
  apply BitVec.eq_of_getLsbD_eq
  intro i hi
  have bytes : ∀ t < 4, (fbufSetWord m w v).read (4 * w + t) = v.extractLsb' (8 * t) 8 := by
    intro t ht
    simp only [fbufSetWord, Memory.read_write]
    interval_cases t <;> simp <;> omega
  rw [fbufWord, show (fbufSetWord m w v).read (4 * w) = v.extractLsb' 0 8 from bytes 0 (by decide),
    bytes 1 (by decide), bytes 2 (by decide), bytes 3 (by decide)]
  interval_cases i <;> simp

theorem fbufWord_setWord_other (m : Memory) {w w' : Nat} (v : Word) (h : w' ≠ w) :
    fbufWord (fbufSetWord m w v) w' = fbufWord m w' := by
  have keep : ∀ a, a / 4 = w' → (fbufSetWord m w v).read a = m.read a := by
    intro a ha
    simp only [fbufSetWord, Memory.read_write]
    rw [if_neg (by omega), if_neg (by omega), if_neg (by omega), if_neg (by omega)]
  rw [fbufWord, keep _ (by omega), keep _ (by omega), keep _ (by omega), keep _ (by omega), fbufWord]

/-! ### Registers -/

/-- The target is an entry that its file has. -/
def Target.inWindow : Target → Bool
  | .fbuf w => decide (w < 16)
  | .val j _ => decide (j < 64)
  | .msg i _ => decide (i < 64)
  | .sig k _ => decide (k < 512)
  | .chan c _ => decide (c < 2)
  | _ => true

theorem target_inWindow {n : Nat} (h : n < 0x10000) : (target n).inWindow = true := by
  have small : ∀ n : Fin 0x100, (globalTarget n).inWindow = true := by decide +kernel
  unfold target
  split_ifs with h0
  · exact small ⟨n, h0⟩
  all_goals simp [Target.inWindow]
  all_goals omega

/-- The reply is no register. -/
@[simp] theorem State.readTarget_reply (s : State) (r : BusReply) (x : Target) :
    ({ s with reply := r } : State).readTarget x = s.readTarget x := by
  cases x <;> rfl

/-- A write of `CTRL` that drops no bit (10_state R24). -/
theorem State.writeCtrl_kept {s : State} {v : Word}
    (h : s.locked = true → v.getLsbD 2 = s.absentRaw0 ∧ v.getLsbD 3 = s.rne) :
    s.writeCtrl v = { s with ie := v.getLsbD 1, absentRaw0 := v.getLsbD 2, rne := v.getLsbD 3 } := by
  unfold State.writeCtrl
  cases hl : s.locked
  · simp
  · simp only [(h hl).1, (h hl).2]
    simp

/-- A write of a reserved word changes nothing (20_memory R68). -/
theorem State.writeTarget_reserved {s : State} {x : Target} (ht : s.tablesOk = true) (hx : x.isReserved = true) (v : Word) :
    s.writeTarget x v = s := by
  simp only [State.tablesOk, Bool.and_eq_true] at ht
  cases x <;> simp [Target.isReserved] at hx <;> simp only [State.writeTarget]
  case val j w =>
    have keep : (s.slot j).setWord w v = s.slot j := by unfold Slot.setWord; split <;> first | rfl | omega
    rw [keep, State.setSlot, slotsSet, State.slot, tableSet_self _ _ _ _ ht.1.1.1]
  case msg i w =>
    have keep : (s.msg i).setWord w v = s.msg i := by unfold MsgDesc.setWord; split <;> first | rfl | omega
    rw [keep, State.setMsg, State.msg, tableSet_self _ _ _ _ ht.1.1.2]
  case sig k w =>
    have keep : (s.sig k).setWord w v = s.sig k := by unfold SigDesc.setWord; split <;> first | rfl | omega
    rw [keep, State.setSig, State.sig, tableSet_self _ _ _ _ ht.1.2]
  case chan c w =>
    have keep : (s.chan c).setWord w v = s.chan c := by unfold Channel.setWord; split <;> first | rfl | omega
    rw [keep, State.setChan, State.chan, tableSet_self _ _ _ _ ht.2]

/-- The word written reads back its stored bits and keeps the others. -/
theorem State.readTarget_writeTarget_same (s : State) {x : Target} (v : Word) (hin : x.inWindow = true)
    (h1 : x ≠ .status) (h2 : x ≠ .cmd) (h3 : x = .ctrl → s.locked = true → v.getLsbD 2 = s.absentRaw0 ∧ v.getLsbD 3 = s.rne) :
    (s.writeTarget x v).readTarget x = merged x.storedBits v (s.readTarget x) := by
  cases x <;> simp only [State.writeTarget, State.readTarget, Target.storedBits] <;>
    simp [Target.inWindow] at hin <;> try first | exact (merged_none ..).symm | exact (merged_all ..).symm
  case ctrl =>
    rw [State.writeCtrl_kept (h3 rfl)]
    apply BitVec.eq_of_getLsbD_eq
    intro i hi
    interval_cases i <;> simp [merged, State.ctrlWord, flagBit]
  case status => exact absurd rfl h1
  case cmd => exact absurd rfl h2
  case flen =>
    apply BitVec.eq_of_getLsbD_eq
    intro i hi
    interval_cases i <;> simp [merged]
  case fbuf w => exact (fbufWord_setWord_same _ hin v).trans (merged_all ..).symm
  case val j w => rw [State.slot_setSlot, if_pos ⟨rfl, hin⟩]; exact Slot.word_setWord_same ..
  case msg i w => rw [State.msg_setMsg, if_pos ⟨rfl, hin⟩]; exact MsgDesc.word_setWord_same ..
  case sig k w => rw [State.sig_setSig, if_pos ⟨rfl, hin⟩]; exact SigDesc.word_setWord_same ..
  case chan c w => rw [State.chan_setChan, if_pos ⟨rfl, by omega⟩]; exact Channel.word_setWord_same ..

/-- Every other register keeps its value. -/
theorem State.readTarget_writeTarget_other (s : State) {x y : Target} (v : Word) (hne : y ≠ x)
    (h1 : x ≠ .status) (h2 : x ≠ .cmd) (h3 : x = .ctrl → s.locked = true → v.getLsbD 2 = s.absentRaw0 ∧ v.getLsbD 3 = s.rne) :
    (s.writeTarget x v).readTarget y = s.readTarget y := by
  cases x
  case status => exact absurd rfl h1
  case cmd => exact absurd rfl h2
  case ctrl =>
    simp only [State.writeTarget, State.writeCtrl_kept (h3 rfl)]
    cases y <;> first | exact absurd rfl hne | rfl
  case fbuf w =>
    cases y <;> try rfl
    exact fbufWord_setWord_other _ v (fun e => hne (by rw [e]))
  case val j w =>
    cases y <;> try rfl
    rename_i j' w'
    simp only [State.writeTarget, State.readTarget, State.slot_setSlot]
    split
    · obtain ⟨rfl, -⟩ := ‹_ ∧ _›
      exact Slot.word_setWord_other _ v (fun e => hne (by rw [e]))
    · rfl
  case msg i w =>
    cases y <;> try rfl
    simp only [State.writeTarget, State.readTarget, State.msg_setMsg]
    split
    · obtain ⟨rfl, -⟩ := ‹_ ∧ _›
      exact MsgDesc.word_setWord_other _ v (fun e => hne (by rw [e]))
    · rfl
  case sig k w =>
    cases y <;> try rfl
    simp only [State.writeTarget, State.readTarget, State.sig_setSig]
    split
    · obtain ⟨rfl, -⟩ := ‹_ ∧ _›
      exact SigDesc.word_setWord_other _ v (fun e => hne (by rw [e]))
    · rfl
  case chan c w =>
    cases y <;> try rfl
    simp only [State.writeTarget, State.readTarget, State.chan_setChan]
    split
    · obtain ⟨rfl, -⟩ := ‹_ ∧ _›
      exact Channel.word_setWord_other _ v (fun e => hne (by rw [e]))
    · rfl
  all_goals cases y <;> first | exact absurd rfl hne | rfl

end Sys2Proof.Machine
end

