-- ==== Sys2Proof/Laws/Step.lean ====
section
/-! SUPPORT. What a step can do, once: the block completes its command, or the outside world makes its next move. -/

namespace Sys2Proof.Machine

/-- What a step that answers a next state did. -/
theorem step_cases {s t : State} (h : step s = .next t) :
    (∃ w i, s.pending = some w ∧ s.wait = 0 ∧ decode w = .ok i ∧ exec i s = .next t) ∨
      (∃ w e, s.pending = some w ∧ s.wait = 0 ∧ decode w = .error e ∧ illegalCommand w s = .next t) ∨
      (s.hostMoves ∧ hostTurn s = .next t) := by
  unfold step at h
  split at h
  · exact .inr (.inr ⟨.inl ‹_›, h⟩)
  · rename_i w hp
    split at h
    · unfold runCommand at h
      split at h
      · exact .inl ⟨w, _, hp, ‹_›, ‹_›, h⟩
      · exact .inr (.inl ⟨w, _, hp, ‹_›, ‹_›, h⟩)
    · exact .inr (.inr ⟨.inr ‹_›, h⟩)

/-- What a turn of the outside world that answers a next state did. -/
theorem hostTurn_cases {s t : State} (h : hostTurn s = .next t) :
    t = s.advanced ∨
      (∃ r, s.host = .setReset true :: r ∧ t = s.advanced.assertReset) ∨
      t = { s.advanced with resetLine := false } ∨
      t = { s.advanced with reply := .notAccepted } ∨
      (∃ off : BitVec 16, s.resetLine = false ∧ off.toNat % 4 = 0 ∧ t = s.advanced.hostRead off.toNat) ∨
      (∃ (off : BitVec 16) (v : Word), s.resetLine = false ∧ off.toNat % 4 = 0 ∧
        t = s.advanced.hostWrite off.toNat v) := by
  unfold hostTurn at h
  split at h
  · exact .inl (next_inj h).symm
  · rename_i e r hh
    unfold serveEvent at h
    split at h
    · exact .inl (next_inj h).symm
    · exact .inr (.inl ⟨_, hh, (next_inj h).symm⟩)
    · exact .inr (.inr (.inl (next_inj h).symm))
    · split at h
      · exact .inr (.inr (.inr (.inl (next_inj h).symm)))
      · split at h
        · rename_i hr ha
          simp [accessOk] at ha
          exact .inr (.inr (.inr (.inr (.inl ⟨_, by simpa [State.advanced] using hr, ha.2, (next_inj h).symm⟩))))
        · cases h
    · split at h
      · exact .inr (.inr (.inr (.inl (next_inj h).symm)))
      · split at h
        · rename_i hr ha
          simp [accessOk] at ha
          exact .inr (.inr (.inr (.inr (.inr ⟨_, _, by simpa [State.advanced] using hr, ha.2, (next_inj h).symm⟩))))
        · cases h

/-- The step of a state that faces an event serves it. -/
theorem step_facing {s : State} {e : HostEvent} (h : s.facing e) : step s = serveEvent e s.advanced := by
  obtain ⟨hm, -, rest, hh⟩ := h
  have ht : hostTurn s = serveEvent e s.advanced := by simp [hostTurn, hh]
  unfold step
  cases hp : s.pending with
  | none => exact ht
  | some w =>
    have : s.wait ≠ 0 := hm.resolve_left (by simp [hp])
    simp [this, ht]

theorem step_facing_read {s : State} {off : BitVec 16} (h : s.facing (.read 4 off)) (ha : off.toNat % 4 = 0) :
    step s = .next (s.advanced.hostRead off.toNat) := by
  rw [step_facing h]
  simp [serveEvent, h.2.1, accessOk, ha]

theorem step_facing_write {s : State} {off : BitVec 16} {v : Word} (h : s.facing (.write 4 off v))
    (ha : off.toNat % 4 = 0) : step s = .next (s.advanced.hostWrite off.toNat v) := by
  rw [step_facing h]
  simp [serveEvent, h.2.1, accessOk, ha]

@[simp] theorem State.advanced_busy (s : State) : s.advanced.busy = s.busy := rfl

@[simp] theorem State.advanced_locked (s : State) : s.advanced.locked = s.locked := rfl

@[simp] theorem State.advanced_readTarget (s : State) (t : Target) : s.advanced.readTarget t = s.readTarget t := by
  cases t <;> rfl

/-- One step of a run. -/
theorem run_succ (M : Host.Core) (k : Nat) (s t : M.State) (h : M.step s = .next t) : M.run (k + 1) s = M.run k t := by
  show Host.Core.run M (k + 1) s = _
  simp [Host.Core.run, h]

end Sys2Proof.Machine
end

