-- ==== Sys2Proof/Machine/HostProgram.lean ====
section
/-! DEFINITION. The host's side of a program: the assembler syntax (30_encoding R100), the host operations WR, RD and WAIT
(R101), the pseudo-instructions (R102), and a host that carries them out on the machine by `step` (log 12). No claim about
the block needs this file; it writes the spec's programs down. -/

namespace Sys2Proof.Machine

/-! ### The assembler (R100) -/

/-- Why the assembler refuses a line. -/
inductive AsmError where
  | unknownMnemonic | operandMissing | operandNotTaken | operandAbove255
  deriving DecidableEq, Repr

/-- The mnemonics that take an operand (R100). -/
def indexedMnemonics : List (String × (Nat → Instr)) :=
  [("ENCODE", fun n => .encode n false), ("ENCODE.C", fun n => .encode n true), ("DECODE", .decode),
   ("CSCOMP", .cscomp), ("CSINS", .csins), ("CSVAL", .csval), ("CNTRD", .cntrd), ("CNTWR", .cntwr),
   ("CNTNXT", .cntnxt), ("LSTEP", .lstep), ("LRST", .lrst)]

/-- The mnemonics that take none (R100). -/
def plainMnemonics : List (String × Instr) :=
  [("NOP", .nop), ("LOOKUP", .lookup), ("VCLR", .vclr), ("LOCK", .lock)]

/-- "An assembler refuses an operand above 255. It refuses an operand on a mnemonic that takes none" (R100). An index at or
above NMSG or NCHAN is not refused. -/
def assemble (mnemonic : String) (operand : Option Nat) : Except AsmError Word :=
  match indexedMnemonics.lookup mnemonic, plainMnemonics.lookup mnemonic, operand with
  | some mk, _, some n => if operandOk n then .ok (encode (mk n)) else .error .operandAbove255
  | some _, _, none => .error .operandMissing
  | none, some i, none => .ok (encode i)
  | none, some _, some _ => .error .operandNotTaken
  | none, none, _ => .error .unknownMnemonic

/-! ### Host operations (R101) and pseudo-instructions (R102) -/

/-- A host operation. -/
inductive HostOp where
  /-- `WR off, v`. -/
  | wr (off : BitVec 16) (v : Word)
  /-- `RD off`. -/
  | rd (off : BitVec 16)
  /-- `RD src -> n` and then `WR dst, n`. -/
  | copy (src dst : BitVec 16)
  /-- `WAIT`: read `STATUS` until `BUSY` is 0. -/
  | wait
  /-- `DO x` if `MSG[m].CNT_EN = 1`: the condition of `INGEST` (R102). -/
  | doIfCounter (m : Nat) (x : Instr)
  deriving DecidableEq, Repr

/-- `DO x`: `WR 0x010, enc(x)` then `WAIT`. -/
def doCommand (i : Instr) : List HostOp := [.wr 0x010 (encode i), .wait]

/-- `ASSEMBLE m`. -/
def assembleFrame (m : Nat) : List HostOp := doCommand (.encode m true) ++ doCommand (.csins m)

/-- `INGEST m`: `CNTRD` is issued only for a message with a counter. -/
def ingest (m : Nat) : List HostOp :=
  doCommand (.decode m) ++ doCommand (.csval m) ++ [.doIfCounter m (.cntrd m)]

/-- `BUMP m`. -/
def bump (m : Nat) : List HostOp := doCommand (.cntnxt m) ++ [.copy 0x018 0x024] ++ doCommand (.cntwr m)

/-- `TICK c, d, me, dr, vf`. -/
def tickOps (c : Nat) (d me dr vf : Word) : List HostOp :=
  [.wr 0x024 d, .wr 0x028 me, .wr 0x02C dr, .wr 0x030 vf] ++ doCommand (.lstep c)

/-! ### A host that carries them out -/

/-- Go on from a next state; a fault or a refusal ends the run. -/
def onNext (r : Result) (f : State → Result) : Result :=
  match r with
  | .next s => f s
  | .fault e => .fault e
  | .refused e => .refused e

/-- The host makes one access: steps until it is served. The block may complete its command in the first of two steps. -/
def perform (e : HostEvent) (s : State) : Result :=
  onNext (step { s with host := [e] }) fun s' => if s'.host = [] then .next s' else step s'

/-- Poll `STATUS` at most `n` times, until bit 0 of the value read is 0. -/
def poll : Nat → State → Result
  | 0, s => .next s
  | n + 1, s =>
    onNext (perform (.read 4 0x00C) s) fun s' =>
      match s'.reply with
      | .data v => if v.getLsbD 0 then poll n s' else .next s'
      | _ => .next s'

/-- One host operation. A command with `wait` steps to go is seen complete at the poll after them, so `WAIT` ends. -/
def hostOp (op : HostOp) (s : State) : Result :=
  match op with
  | .wr off v => perform (.write 4 off v) s
  | .rd off => perform (.read 4 off) s
  | .copy src dst =>
    onNext (perform (.read 4 src) s) fun s' =>
      match s'.reply with
      | .data v => perform (.write 4 dst v) s'
      | _ => .next s'
  | .wait => poll (s.wait + 1) s
  | .doIfCounter m x =>
    if (s.msg m).cntEn then onNext (perform (.write 4 0x010 (encode x)) s) fun s' => poll (s'.wait + 1) s' else .next s

/-- A host program, in order. -/
def runHost : List HostOp → State → Result
  | [], s => .next s
  | op :: ops, s => onNext (hostOp op s) (runHost ops)

end Sys2Proof.Machine
end

