-- ==== Sys2Proof/Tests/Slice0.lean ====
section
/-! SUPPORT. Tests of the model on small states, with the expected values of spec/95_test_vectors.md, and for every statement
with hypotheses a witness that meets them. -/

namespace Sys2Proof.Tests

open Sys2Proof Sys2Proof.Machine

/-! ### Ill-formed commands are refused (30_encoding R100) -/

theorem test_wellFormed_encode : wellFormed (.encode 256 true) = false ∧ wellFormed (.encode 255 true) = true := by decide
theorem test_wellFormed_decode : wellFormed (.decode 256) = false := by decide
theorem test_wellFormed_cscomp : wellFormed (.cscomp 256) = false := by decide
theorem test_wellFormed_csins : wellFormed (.csins 256) = false := by decide
theorem test_wellFormed_csval : wellFormed (.csval 256) = false := by decide
theorem test_wellFormed_cntrd : wellFormed (.cntrd 256) = false := by decide
theorem test_wellFormed_cntwr : wellFormed (.cntwr 256) = false := by decide
theorem test_wellFormed_cntnxt : wellFormed (.cntnxt 256) = false := by decide
theorem test_wellFormed_lstep : wellFormed (.lstep 256) = false := by decide
theorem test_wellFormed_lrst : wellFormed (.lrst 256) = false := by decide

/-- "It refuses an operand on a mnemonic that takes none" (R100). -/
theorem test_assemble :
    assemble "ENCODE.C" (some 3) = .ok 0x00010301 ∧ assemble "DECODE" (some 256) = .error .operandAbove255 ∧
    assemble "LOCK" (some 0) = .error .operandNotTaken ∧ assemble "LSTEP" none = .error .operandMissing ∧
    assemble "FOO" none = .error .unknownMnemonic := by decide

/-! ### Every command's word, written out from R90 and R95: bits 7..0 OP, bits 15..8 IDX, bit 16 CLR -/

theorem test_word_nop : decode 0b00000000000000000000000000000000#32 = .ok .nop := by decide
theorem test_word_encode : decode 0b00000000000000000000001100000001#32 = .ok (.encode 3 false) := by decide
theorem test_word_encode_clear : decode 0b00000000000000010000001100000001#32 = .ok (.encode 3 true) := by decide
theorem test_word_decode : decode 0b00000000000000001111111100000010#32 = .ok (.decode 255) := by decide
theorem test_word_cscomp : decode 0b00000000000000000000010100000011#32 = .ok (.cscomp 5) := by decide
theorem test_word_csins : decode 0b00000000000000000000000000000100#32 = .ok (.csins 0) := by decide
theorem test_word_csval : decode 0b00000000000000000000000100000101#32 = .ok (.csval 1) := by decide
theorem test_word_cntrd : decode 0b00000000000000000000010100000110#32 = .ok (.cntrd 5) := by decide
theorem test_word_cntwr : decode 0b00000000000000000100000000000111#32 = .ok (.cntwr 64) := by decide
theorem test_word_cntnxt : decode 0b00000000000000000000001000001000#32 = .ok (.cntnxt 2) := by decide
theorem test_word_lookup : decode 0b00000000000000000000000000001001#32 = .ok .lookup := by decide
theorem test_word_vclr : decode 0b00000000000000000000000000001010#32 = .ok .vclr := by decide
theorem test_word_lock : decode 0b00000000000000000000000000001111#32 = .ok .lock := by decide
theorem test_word_lstep : decode 0b00000000000000000000000100010000#32 = .ok (.lstep 1) := by decide
theorem test_word_lrst : decode 0b00000000000000000000000100010001#32 = .ok (.lrst 1) := by decide

/-- T-W5 to T-W12: the illegal words. -/
theorem test_illegal_words :
    decode 0x00000109 = .error .idxNotZero ∧ decode 0x00010002 = .error .clrNotAllowed ∧
    decode 0x00000012 = .error (.undefinedOpcode 0x12) ∧ decode 0x0000000B = .error (.undefinedOpcode 0x0B) ∧
    decode 0x80000000 = .error .reservedBits ∧ decode 0x00020001 = .error .reservedBits ∧
    decode 0x00010003 = .error .clrNotAllowed ∧ decode 0x00000100 = .error .idxNotZero := by decide

theorem test_decodeTableWord : decodeTableWord 32 0x00000110 = some (.lstep 1) ∧ decodeTableWord 32 0x12 = none := by decide

/-! ### Small states -/

/-- A signal descriptor. -/
def signal (start len : Nat) (signed be : Bool) (sn : Int := 1) (sd : Nat := 1) (on : Int := 0) (od : Nat := 1) : SigDesc :=
  ⟨BitVec.ofNat 16 start, BitVec.ofNat 7 len, signed, be, BitVec.ofInt 32 sn, BitVec.ofNat 32 sd, BitVec.ofInt 32 on,
    BitVec.ofNat 32 od⟩

/-- A given slot with the value `n / d`. -/
def given (n : Int) (d : Nat := 1) : Slot := ⟨BitVec.ofInt 128 n, BitVec.ofNat 64 d, 0, true, false, false⟩

/-- A given slot in raw mode. -/
def rawGiven (r : Int) : Slot := ⟨0, 0, BitVec.ofInt 64 r, true, false, true⟩

/-- The frame buffer with these first bytes. -/
def frame (bytes : List Nat) : Memory :=
  bytes.zipIdx.foldl (fun m e => m.write e.2 (BitVec.ofNat 8 e.1)) []

/-- The first `n` bytes of the frame buffer. -/
def bytes (s : State) (n : Nat) : List Nat := (List.range n).map fun a => (s.fbuf.read a).toNat

/-- An enabled message without checksum and counter. -/
def plainMessage (len count : Nat) : MsgDesc :=
  { MsgDesc.reset with en := true, len := BitVec.ofNat 8 len, sigCount := BitVec.ofNat 8 count }

/-- A message with one signal, in OPERATE (section 2.2). -/
def oneSignal (d : SigDesc) (len : Nat) (v : Slot) (rne : Bool := false) (f : List Nat := []) : State :=
  { State.reset with
    phase := .operate, rne := rne, sigs := [(0, d)], msgs := [(0, plainMessage len 1)], vals := slotsSet [] 0 v
    fbuf := frame f, flen := BitVec.ofNat 8 len }

/-- `MSG[0]` of program P1. -/
def p1Message : MsgDesc :=
  { MsgDesc.reset with
    en := true, csAlg := .crc8, cntEn := true, len := 6, sigCount := 2, addr := 0x100
    csEnd := 6, csExcl := 1, csPos := 5, csFxor := 0xFF, cntStart := 32, cntW := 4 }

/-- The two signals of program P1. -/
def p1Signals : List (Nat × SigDesc) :=
  [(0, signal 0 16 false false 1 2 (-100)), (1, signal 23 16 true true 1 100)]

/-- `MSG[1]` of program P2 (V4). -/
def p2Message : MsgDesc :=
  { MsgDesc.reset with
    en := true, csAlg := .crc8, cntEn := true, len := 4, sigCount := 1, addr := 0x1D3, sigFirst := 2
    csEnd := 4, csExcl := 2, csPos := 2, csFxor := 0xFF, cntStart := 24, cntW := 4 }

/-- `CH[0]` of program P3, with a start state. -/
def p3Channel (last : Int) (errAcc : Word := 0) (perm : Bool := false) : Channel :=
  { Channel.reset with
    max := 1500, deltaUp := 10, deltaDown := 25, drvAllow := 50, drvMult := 3, drvFactor := 5, errThresh := 100
    errMax := 2, en := true, last := BitVec.ofInt 32 last, errAcc := errAcc, perm := perm }

/-- P1's and P2's messages and two more: passthrough at 2, counter-only at 3, neither at 4. -/
def catalog : List (Nat × MsgDesc) :=
  [(0, p1Message), (1, p2Message),
   (2, { plainMessage 2 0 with csAlg := .passthrough, csPos := 1, addr := 0x200 }),
   (3, { plainMessage 2 0 with csAlg := .counterOnly, cntEn := true, cntW := 16, cntBe := true, cntStart := 7, addr := 0x300 }),
   (4, { plainMessage 2 0 with addr := 0x400 })]

/-- A state in OPERATE with that catalog, P1's values and frame, and P3's channel. -/
def demo : State :=
  { State.reset with
    phase := .operate, msgs := catalog, sigs := p1Signals ++ [(2, signal 0 16 false false)]
    vals := [(0, given 20559 2), (1, given (-26676) 100)], chans := [(0, p3Channel 60)]
    fbuf := frame [0x17, 0x51, 0x97, 0xCC, 0x00, 0xDF], flen := 6 }

/-- The same before `LOCK`, with the channel as after reset. -/
def demoConfig : State :=
  { demo with phase := .config, chans := [(0, p3Channel 0)] }

/-- P1's catalog and frame with another message and length. -/
def p1State (m : MsgDesc) (f : List Nat) (flen : Byte := 6) : State :=
  { State.reset with phase := .operate, msgs := [(0, m)], sigs := p1Signals, fbuf := frame f, flen := flen }

/-- The state after a command that completes. -/
def after (i : Instr) (s : State) : State :=
  match exec i s with
  | .next t => t
  | .fault _ => s
  | .refused _ => s

/-- The state after one host access. -/
def afterAccess (e : HostEvent) (s : State) : State :=
  match step { s with host := [e] } with
  | .next t => t
  | .fault _ => s
  | .refused _ => s

/-! ### One test or two per command -/

/-- T-X9. -/
theorem test_nop : (after .nop State.reset).statusWord = 0x00000002 ∧ (after .nop demo).statusWord = 0x00000012 := by
  decide

/-- P1, step 11, and T-E3b: little and big endian, scale and offset. -/
theorem test_encode_fields :
    bytes (after (.encode 0 true) { demo with fbuf := [] }) 6 = [0x17, 0x51, 0x97, 0xCC, 0x00, 0x00] ∧
    bytes (after (.encode 0 true) (oneSignal (signal 3 10 false true) 3 (given 0x201))) 3 = [0x08, 0x04, 0x00] ∧
    bytes (after (.encode 0 false) (oneSignal (signal 4 12 false false) 2 (given 0) false [0xFF, 0xFF])) 2 = [0x0F, 0x00] := by
  decide +kernel

/-- T-E4c, T-E4d, T-E5d, T-E6c, T-E8: ties in the two modes, clamping, raw mode, a negative scale. -/
theorem test_encode_values :
    bytes (after (.encode 0 true) (oneSignal (signal 0 8 true false) 1 (given (-5) 2))) 1 = [0xFD] ∧
    bytes (after (.encode 0 true) (oneSignal (signal 0 8 true false) 1 (given (-5) 2) true)) 1 = [0xFE] ∧
    (let t := after (.encode 0 true) (oneSignal (signal 0 8 true false) 1 (given (-129)))
     bytes t 1 = [0x80] ∧ t.oor = true ∧ (t.slot 0).raw.toInt = -128 ∧ (t.slot 0).oor = true) ∧
    bytes (after (.encode 0 true) (oneSignal (signal 0 8 true false) 1 (rawGiven 0x80))) 1 = [0x7F] ∧
    bytes (after (.encode 0 true) (oneSignal (signal 0 8 true false (-1) 4 10) 1 (given 7))) 1 = [0x0C] := by
  decide +kernel

/-- T-D2. -/
theorem test_decode_p1 :
    let t := after (.decode 0) demo
    t.slot 0 = { num := 20559, den := 2, raw := 20759, present := true, oor := false, rawIn := false } ∧
    (t.slot 1).raw = 0xFFFFFFFFFFFF97CC ∧ (t.slot 1).num.toInt = -26676 ∧ (t.slot 1).den = 100 := by
  decide +kernel

/-- T-D3: the pair is not reduced. -/
theorem test_decode_unreduced :
    (after (.decode 0) (oneSignal (signal 0 8 false false 3 10 (-1) 3) 1 Slot.reset false [5])).slot 0 =
      { num := 35, den := 30, raw := 5, present := true, oor := false, rawIn := false } := by
  decide +kernel

/-- T-V1. -/
theorem test_vclr :
    let t := after .vclr { State.reset with vals := [(0, given 5), (63, rawGiven 1)] }
    t.statusWord = 0x00000002 ∧ t.slot 0 = Slot.reset ∧ t.slot 63 = Slot.reset := by
  decide

/-- V1, T-K1, T-K2b, T-K6a. -/
theorem test_cscomp :
    (after (.cscomp 0) demo).result0 = 0xDF ∧
    (after (.cscomp 0) (p1State { p1Message with csFxor := 0 } [0x17, 0x51, 0x97, 0xCC])).result0 = 0x20 ∧
    (after (.cscomp 0) (p1State { p1Message with csEnd := 0, csExcl := 0, csFxor := 0 } [0x17])).result0 = 0xFF ∧
    (after (.cscomp 0) (p1State { p1Message with csAlg := .passthrough } [0x17, 0, 0, 0, 0, 0x5A])).result0 = 0x5A := by
  decide +kernel

/-- T-K4. -/
theorem test_csins :
    let t := after (.csins 0) (p1State p1Message [0x17, 0x51, 0x97, 0xCC, 0x00, 0x00])
    bytes t 7 = [0x17, 0x51, 0x97, 0xCC, 0x00, 0xDF, 0x00] ∧ t.result0 = 0xDF := by
  decide +kernel

/-- T-K3. -/
theorem test_csval_wrong :
    let t := after (.csval 0) (p1State p1Message [0x17, 0x51, 0x97, 0xCC, 0x00, 0xDE])
    t.result0 = 0xDF ∧ t.result1 = 0xDE ∧ t.statusWord = 0x00000012 := by
  decide +kernel

/-- T-K10a, T-K10b: V4's message. -/
theorem test_csval_exclusion :
    (let t := after (.csval 1) { demo with fbuf := frame [2, 0x0E, 0x80, 5], flen := 4 }
     t.result0 = 0x80 ∧ t.result1 = 0x80 ∧ t.statusWord = 0x0000001A) ∧
    (let t := after (.csval 1) { demo with fbuf := frame [2, 0x0F, 0x80, 0], flen := 4 }
     t.result0 = 0x9D ∧ t.result1 = 0x80 ∧ t.statusWord = 0x00000012) := by
  decide +kernel

/-- T-N1. -/
theorem test_cntrd : (after (.cntrd 0) (p1State p1Message [0, 0, 0, 0, 0xA7] 0)).result0 = 7 := by decide +kernel

/-- T-N2, T-N4. -/
theorem test_cntwr :
    bytes (after (.cntwr 0) { p1State p1Message [0, 0, 0, 0, 0xA0] with arg0 := 0x11 }) 5 = [0, 0, 0, 0, 0xA1] ∧
    bytes (after (.cntwr 0) { p1State { p1Message with cntBe := true, cntStart := 7 } [] with arg0 := 5 }) 1 = [0x50] := by
  decide +kernel

/-- T-N3b, T-N3c, T-N3d. -/
theorem test_cntnxt :
    (after (.cntnxt 0) { demo with arg0 := 0x11 }).result0 = 2 ∧
    (after (.cntnxt 0) { demo with arg0 := 0xFFFFFFFF }).result0 = 0 ∧
    (after (.cntnxt 3) { demo with arg0 := 0xFFFF }).result0 = 0 := by
  decide +kernel

/-- T-X7, T-X8. -/
theorem test_lookup :
    (let t := after .lookup { demo with arg0 := 0x100, arg1 := 0x1D3 }
     t.result0 = 1 ∧ t.statusWord = 0x00000012) ∧
    (let t := after .lookup { demo with arg0 := 1, arg1 := 0x1D3 }
     t.errInfo = 0x0000FF00 ∧ t.statusWord = 0x00000912) := by
  decide +kernel

/-- The reference message of section 2.6, changed; the state is in CONFIG. -/
def lockState (m : MsgDesc) (sigs : List (Nat × SigDesc)) : State :=
  { State.reset with msgs := [(0, m)], sigs := sigs }

/-- T-C1a, T-C7, T-C10, T-C13, T-C16. -/
theorem test_lock_failures :
    (after .lock (lockState (plainMessage 0 1) [(0, signal 0 8 false false)])).errInfo = 0x0101FF00 ∧
    (after .lock (lockState (plainMessage 8 2) [(0, signal 0 8 false false), (1, signal 7 4 false false)])).errInfo =
      0x01070100 ∧
    (after .lock (lockState { plainMessage 8 1 with csAlg := .crc8, csPos := 7, csEnd := 8 }
      [(0, signal 0 8 false false)])).errInfo = 0x010AFF00 ∧
    (after .lock (lockState { plainMessage 8 1 with cntEn := true, cntW := 4, cntStart := 62 }
      [(0, signal 0 8 false false)])).errInfo = 0x010DFF00 ∧
    (let t := after .lock (lockState (plainMessage 8 2) [(0, signal 0 8 false false 0), (1, signal 8 0 false false)])
     t.errInfo = 0x01030100 ∧ t.statusWord = 0x00000502) := by
  decide +kernel

/-- T-C15, T-C18, T-C19. -/
theorem test_lock_channel_and_success :
    (after .lock { State.reset with chans := [(1, { Channel.reset with en := true, deltaDown := 0xFFFFFFFF })] }).errInfo =
      0x02010201 ∧
    (after .lock { State.reset with chans := [(0, { Channel.reset with en := true, errMax := 0xFFFFFFFF })] }).statusWord =
      0x00000012 ∧
    (after .lock (lockState { plainMessage 8 1 with csAlg := .crc8, csPos := 7, csEnd := 8, csExcl := 1 }
      [(0, signal 0 8 false false)])).statusWord = 0x00000012 := by
  decide +kernel

/-- A tick of channel 0 from a given channel, with the inputs `(d, meas, drv, vf)`: `RESULT0`, `RESULT1` and `ERR_ACC`. -/
def tick (c : Channel) (d meas drv : Int) (vf : Word) : Int × Word × Word :=
  let t := after (.lstep 0) { State.reset with
    phase := .operate, chans := [(0, c)]
    arg0 := BitVec.ofInt 32 d, arg1 := BitVec.ofInt 32 meas, arg2 := BitVec.ofInt 32 drv, arg3 := vf }
  (t.result0.toInt, t.result1, (t.chan 0).errAcc)

/-- T-L1, T-L3, T-L5a, T-L5b, T-L6, T-L8. -/
theorem test_lstep_steps :
    tick (p3Channel 10) (-10) 0 0 0 = (0, 0x10, 0) ∧ tick (p3Channel 60) 100 0 (-50) 0 = (70, 0x10, 0) ∧
    tick (p3Channel 60) 60 160 0 0 = (60, 0x00, 0) ∧ tick (p3Channel 60) 60 161 0 0 = (60, 0x00, 1) ∧
    tick (p3Channel 60) 20 60 0 0 = (35, 0x10, 0) ∧ tick (p3Channel 60) (-60) 50 0 0 = (50, 0x10, 0) := by
  decide +kernel

/-- T-L2, T-L9, T-L10, T-L11, T-L12, and P3's tick 7. -/
theorem test_lstep_override_and_faults :
    tick { p3Channel 0 with max := 0 } 100 0 0 0 = (0, 0x08, 0) ∧
    tick (p3Channel (-30)) (-100) 0 51 0 = (0, 0x04, 0) ∧
    tick { p3Channel 60 with drvMult := 0x7FFFFFFF, drvFactor := 0x7FFFFFFF } 100 0 (-60) 0 = (0, 0x04, 0) ∧
    tick { p3Channel 60 with fbSel := true } 100 0 400 0 = (70, 0x10, 1) ∧
    tick (p3Channel 50 2) 100 400 0 1 = (60, 0x13, 3) ∧ tick (p3Channel 60) 100 30 (-60) 0 = (20, 0x14, 0) := by
  decide +kernel

/-- T-L14, and the channel error of section 2.5. -/
theorem test_lrst :
    (let t := after (.lrst 0) { demo with chans := [(0, p3Channel 60 1 true)], result0 := 5 }
     t.chan 0 = p3Channel 0 ∧ t.result0 = 5 ∧ t.statusWord = 0x00000012) ∧
    (after (.lrst 1) demo).errInfo = 0x0000FF01 := by
  decide +kernel

/-! ### The window -/

/-- T-H1, T-H2, T-H4. -/
theorem test_reads :
    (afterAccess (.read 4 0x000) State.reset).reply = .data 0x00400240 ∧
    (afterAccess (.read 4 0x004) State.reset).reply = .data 0x00400200 ∧
    (afterAccess (.read 4 0x8080) State.reset).reply = .data 0 ∧
    (afterAccess (.read 4 0x104) demo).reply = .data 0x0000DF00 ∧
    (afterAccess (.read 4 0x034) demo).reply = .data 0 := by
  decide +kernel

/-- T-H6's `CTRL`, T-H8's `STATUS`, and P2's end state of `CMD`, `RESULT0`, `RESULT1`, `FLEN`, `ARG0` and `ARG1`, read at the
offsets of R74. -/
theorem test_global_registers :
    let s : State := { demo with
      ie := true, done := true, wdrop := true, cmd := 0x105, result0 := 0x9D, result1 := 0x80, flen := 4, arg0 := 0
      arg1 := 0x1D3 }
    let r := fun off => (afterAccess (.read 4 off) s).reply
    r 0x008 = .data 0x2 ∧ r 0x00C = .data 0x32 ∧ r 0x010 = .data 0x105 ∧ r 0x018 = .data 0x9D ∧ r 0x01C = .data 0x80 ∧
    r 0x020 = .data 4 ∧ r 0x024 = .data 0 ∧ r 0x028 = .data 0x1D3 := by
  decide +kernel

/-- T-H4. -/
theorem test_bus_errors :
    step { State.reset with host := [.write 1 0x100 0] } = .fault (.busError 0x100) ∧
    step { State.reset with host := [.read 4 0x102] } = .fault (.busError 0x102) := ⟨rfl, rfl⟩

/-- T-H5, T-H6, T-H8. -/
theorem test_writes :
    (let t := afterAccess (.write 4 0x2000 0) demo
     t.msg 0 = p1Message ∧ t.statusWord = 0x00000030) ∧
    (let t := afterAccess (.write 4 0x008 0x0000000A) demo
     t.ctrlWord = 0x00000002 ∧ t.wdrop = true) ∧
    (afterAccess (.write 4 0x00C 0x20) { demo with done := true, wdrop := true }).statusWord = 0x00000012 := by
  decide +kernel

/-- T-H7: the second command write is dropped. -/
theorem test_second_command_dropped :
    let s := afterAccess (.write 4 0x010 1) { demo with latencies := [3] }
    let t := afterAccess (.write 4 0x010 0) s
    s.busy = true ∧ t.cmd = 0x00000001 ∧ t.pending = some 1 ∧ t.wdrop = true ∧ t.wait = 2 := by
  decide +kernel

/-- T-H2 while a command runs: R71 lists other reads (log 4). -/
theorem test_reserved_reads_while_busy :
    let s : State := { demo with cmd := 1, pending := some 1#32, wait := 2 }
    (afterAccess (.read 4 0x034) s).reply = .data 0 ∧ (afterAccess (.read 4 0x8030) s).reply = .data 0 ∧
    (afterAccess (.read 4 0x1024) s).reply = .data 0 ∧ (afterAccess (.read 4 0x2018) s).reply = .data 0 := by
  decide +kernel

/-- The state after these host writes. -/
def afterWrites (l : List (BitVec 16 × Word)) (s : State) : State :=
  l.foldl (fun s e => afterAccess (.write 4 e.1 e.2) s) s

/-- P1, steps 1 to 7, and P2, step 1: the fields of the words of a message and of a signal. -/
theorem test_descriptor_words :
    (let t := afterWrites [(0x2000, 0x0002060B), (0x2004, 0x00000100), (0x200C, 0x05010600), (0x2010, 0x000000FF),
       (0x2014, 0x00040020)] State.reset
     t.msg 0 = p1Message) ∧
    (let t := afterWrites [(0x4000, 0x00100000), (0x4004, 1), (0x4008, 2), (0x400C, 0xFFFFFF9C), (0x4010, 1),
       (0x4020, 0x03100017), (0x4024, 1), (0x4028, 0x64), (0x4030, 1)] State.reset
     t.sigs = p1Signals) ∧
    (afterWrites [(0x2028, 0x00020000)] State.reset).msg 1 = { MsgDesc.reset with sigFirst := 2 } := by
  decide +kernel

/-- P3, steps 1 and 2, and P1, step 10: the fields of the words of a channel and of a value slot. -/
theorem test_channel_and_value_words :
    (let t := afterWrites [(0x8000, 0x5DC), (0x8004, 0xA), (0x8008, 0x19), (0x800C, 0x32), (0x8010, 3), (0x8014, 5),
       (0x8018, 0x64), (0x801C, 2), (0x8020, 1)] State.reset
     t.chan 0 = p3Channel 0) ∧
    (let t := afterWrites [(0x1040, 0xFFFF97CC), (0x1044, 0xFFFFFFFF), (0x1048, 0xFFFFFFFF), (0x104C, 0xFFFFFFFF),
       (0x1050, 0x64), (0x1060, 1)] State.reset
     t.slot 1 = given (-26676) 100) := by
  decide +kernel

/-- The commands a host program leaves in `CMD`, and the two results, with no delays. -/
def hostResults (ops : List HostOp) (s : State) : Option (Word × Word × Word) :=
  match runHost ops { s with latencies := [0, 0, 0] } with
  | .next t => some (t.cmd, t.result0, t.result1)
  | .fault _ => none
  | .refused _ => none

/-- P2, steps 8 to 10, and a message without counter, for which `INGEST` ends with `CSVAL` (R102). -/
theorem test_ingest :
    hostResults (ingest 1) { demo with fbuf := frame [2, 0x0E, 0x80, 0], flen := 4 } = some (0x00000106, 0, 0x80) ∧
    hostResults (ingest 2) { demo with fbuf := frame [0, 0x5A], flen := 2 } = some (0x00000205, 0x5A, 0x5A) := by
  decide +kernel

/-- T-X1, T-W5 in CONFIG: legality before phase. -/
theorem test_first_step_runs_the_word :
    (∀ t, step (State.reset.withFetchWord 32 0x00000002) = .next t → t.statusWord = 0x00000202 ∧ t.errInfo = 0x0000FF00) ∧
    (∀ t, step (State.reset.withFetchWord 32 0x00000109) = .next t → t.statusWord = 0x00000102 ∧ t.errInfo = 0x0000FF01) := by
  constructor <;> intro t h <;> cases h <;> decide

/-- P4, steps 9 to 11: an illegal word completes, and the interrupt follows `DONE`. -/
theorem test_interrupt :
    let s := afterAccess (.write 4 0x008 2) { demo with done := true }
    s.irq = true ∧ (afterAccess (.write 4 0x00C 2) s).irq = false := by
  decide +kernel

/-! ### Witnesses: the hypotheses of each statement can be met -/

theorem demo_inv : demo.Inv := ⟨by decide +kernel, by decide +kernel, by decide +kernel, by decide +kernel, by decide +kernel, by decide +kernel⟩

theorem demo_catalog (s : State) (hp : s.phase = .operate) (hm : s.msgs = demo.msgs) (hs : s.sigs = demo.sigs)
    (hc : s.chans = demo.chans) : s.catalogOk = true := by
  rw [State.catalogOk, lockFailure_congr hm hs hc, State.locked, hp]
  exact demo_inv.catalog

theorem demoConfig_inv : demoConfig.Inv :=
  ⟨by decide +kernel, by decide +kernel, by decide +kernel, by decide +kernel, by decide +kernel, by decide +kernel⟩

/-- Two signals overlap in no frame bit if the first two do not. -/
theorem noOverlap_of_two {p : Nat → Nat → Prop} (h : p 0 1) (a b : Nat) (hab : a < b) (hb : b < 2) : p a b := by
  obtain ⟨rfl, rfl⟩ : a = 0 ∧ b = 1 := by omega
  exact h

theorem demo_message_valid (s : State) (hm : s.msgs = demo.msgs) (hs : s.sigs = demo.sigs) :
    MessageValid s 0 (s.msg 0) := by
  have hmsg : ∀ i, s.msg i = demo.msg i := by intro i; simp [State.msg, hm]
  have hsig : ∀ m j, s.signalOf m j = demo.signalOf m j := by intro m j; simp [State.signalOf, State.sig, hs]
  rw [hmsg]
  refine ⟨by decide, by decide, ?_, ?_, ?_, ?_, ?_, by decide, by decide, by decide, by decide, by decide,
    by decide, fun i h => by omega⟩ <;> simp only [hsig]
  · decide
  · decide
  · decide
  · decide
  · exact noOverlap_of_two (p := fun a b => ∀ x ∈ (demo.signalOf (demo.msg 0) a).frameBits,
      x ∉ (demo.signalOf (demo.msg 0) b).frameBits) (by decide +kernel)

/-- Every message of the demo catalog passes its checks, for a catalog without the others' trouble. -/
def smallConfig : State :=
  { State.reset with msgs := [(0, p1Message)], sigs := p1Signals, chans := [(1, p3Channel 0)] }

theorem smallConfig_valid : CatalogValid smallConfig := by
  constructor
  · intro i hi he
    obtain rfl : i = 0 := by
      by_contra h
      have : smallConfig.msg i = MsgDesc.reset := by
        simp [State.msg, smallConfig, tableRead, Ne.symm h]
      rw [this] at he
      cases he
    refine ⟨by decide, by decide, by decide, by decide, by decide, by decide, ?_, by decide, by decide, by decide,
      by decide, by decide, by decide, fun i h => by omega⟩
    exact noOverlap_of_two (p := fun a b => ∀ x ∈ (smallConfig.signalOf (smallConfig.msg 0) a).frameBits,
      x ∉ (smallConfig.signalOf (smallConfig.msg 0) b).frameBits) (by decide +kernel)
  · intro c hc he
    obtain rfl : c = 1 := by
      by_contra h
      have : smallConfig.chan c = Channel.reset := by
        simp [State.chan, smallConfig, tableRead, Ne.symm h]
      rw [this] at he
      cases he
    exact ⟨by decide, by decide, by decide, by decide, by decide, by decide, by decide⟩

/-- A catalog that `LOCK` refuses: message 0 has length 0. -/
theorem smallConfig_invalid : ¬ CatalogValid { smallConfig with msgs := [(0, { p1Message with len := 0 })] } := by
  intro h
  exact absurd (h.messages 0 (by decide) (by decide)).len (by decide)

theorem test_witness_DecodingAnEncodedCommandGivesItBack : wellFormed (.encode 255 true) = true := by decide

theorem test_witness_EncodingADecodedWordGivesItBack : decode 0x0001FF01 = .ok (.encode 255 true) := by decide

theorem test_witness_IllegalWordCompletesWithIllegalCmd :
    (let s := demo.withFetchWord 32 0x12
     s.pending = some 0x12#32 ∧ s.wait = 0 ∧ ∀ r ∈ opcodeMap, r.covers 0x12 = false) ∧
    (0x0B ≤ ((0x0000000B : Word).extractLsb' 0 8).toNat ∧ ((0x0000000B : Word).extractLsb' 0 8).toNat ≤ 0x0E) ∧
    0x12 ≤ ((0x00000012 : Word).extractLsb' 0 8).toNat ∧ (0x00020001 : Word) >>> 17 ≠ 0 ∧
    ((0x00010002 : Word).getLsbD 16 = true ∧ (0x00010002 : Word).extractLsb' 0 8 ≠ 0x01) ∧
    ((0x00000109 : Word).extractLsb' 8 8 ≠ 0 ∧ (0x00000109 : Word).extractLsb' 0 8 ∈ [(0x00 : Byte), 0x09, 0x0A, 0x0F]) := by
  decide

theorem test_witness_StepRunsTheDecodedCommand :
    (demo.withFetchWord 32 0x00010001).pending = some 0x00010001#32 ∧ decode 0x00010001 = .ok (.encode 0 true) ∧
    (demo.withFetchWord 32 0x00010001).wait = 0 ∧ ({ demo.withFetchWord 32 1 with wait := 3 } : State).wait ≠ 0 ∧
    demo.pending = none := by
  decide

theorem test_witness_FailedCommandWritesOnlyErrorFields :
    (∃ t, exec (.decode 64) demo = .next t ∧ t.err = .badIndex) ∧
    (∃ t, exec (.encode 0 true) { demo with vals := [(1, { given 0 with den := 0 })] } = .next t ∧ t.err = .badValue) ∧
    (∃ t, exec .lock { smallConfig with msgs := [(0, { p1Message with len := 0 })] } = .next t ∧ t.err = .badDescriptor) ∧
    (∃ t, exec .lookup demo = .next t ∧ t.err = .unknownAddress) := by
  exact ⟨⟨_, rfl, by decide⟩, ⟨_, rfl, by decide +kernel⟩, ⟨_, rfl, by decide +kernel⟩, ⟨_, rfl, by decide +kernel⟩⟩

theorem test_witness_SuccessfulCommandWritesCompletionFields :
    ∃ t, exec (.csval 0) demo = .next t ∧ t.err = .none := ⟨_, rfl, by decide +kernel⟩

theorem test_witness_CommandsNeedTheirPhase :
    Instr.decode 255 ≠ .nop ∧ Instr.decode 255 ≠ .vclr ∧ Instr.decode 255 ≠ .lock ∧ demoConfig.phase = .config ∧
    demo.phase = .operate := by
  decide

theorem test_witness_BadIndexIsReported :
    messageIndex (.cntrd 64) = some 64 ∧ messageIndex (.encode 63 true) = some 63 ∧ (demo.msg 63).en = false ∧
    channelIndex (.lstep 2) = some 2 ∧ channelIndex (.lrst 1) = some 1 ∧ (demo.chan 1).en = false ∧
    demo.phase = .operate := by
  decide

theorem test_witness_LatchedCommandCompletesAfterItsDelay :
    let s : State := { demo with
      cmd := 1, pending := some 1#32, wait := 3, host := [.idle, .read 4 0xFFFC, .write 4 0x010 0, .setReset true] }
    s.pending = some 1#32 ∧ s.resetLine = false ∧ s.host.take s.wait = [.idle, .read 4 0xFFFC, .write 4 0x010 0] ∧
    (0xFFFC#16).toNat % 4 = 0 ∧ (0x010#16).toNat % 4 = 0 := by
  decide

theorem test_witness_GivenValueRoundsTheExactQuotient :
    let d := signal 0 8 true false (-1) 4 10
    (given (-5) 2).present = true ∧ (given (-5) 2).rawIn = false ∧ (given (-5) 2).den.toNat ≠ 0 ∧
    d.scaleNum.toInt ≠ 0 ∧ d.scaleDen.toNat ≠ 0 ∧ d.offDen.toNat ≠ 0 := by
  decide

/-- The two roundings differ on 5/2 (T-E4a, T-E4b). -/
theorem test_witness_GivenValueRoundsTheExactQuotient_tie : ratRound true (5 / 2) = 2 ∧ ratRound false (5 / 2) = 3 := by
  have h : ⌊(5 / 2 : ℚ)⌋ = 2 := by rw [Int.floor_eq_iff]; norm_num
  have h' : ⌊(5 / 2 : ℚ) + 1 / 2⌋ = 3 := by rw [Int.floor_eq_iff]; norm_num
  constructor
  · show ratRoundHE (5 / 2) = 2
    unfold ratRoundHE
    rw [h]
    norm_num
  · show ratRoundHA (5 / 2) = 3
    unfold ratRoundHA ratSign
    rw [abs_of_pos (by norm_num), h']
    norm_num

theorem test_witness_AbsentAndRawModeValues :
    Slot.reset.present = false ∧ (signal 0 16 false false 1 2 (-100)).scaleNum.toInt ≠ 0 ∧
    (signal 0 16 false false 1 2 (-100)).scaleDen.toNat ≠ 0 ∧ (signal 0 16 false false 1 2 (-100)).offDen.toNat ≠ 0 ∧
    (({ demo with vals := [(1, rawGiven 0x80)] } : State).slot 1).present = true ∧
    (({ demo with vals := [(1, rawGiven 0x80)] } : State).slot 1).rawIn = true := by
  decide

theorem test_witness_AbsentAndRawModeValues_zero_offset : (signal 0 8 true false).offset = 0 := by
  have : (signal 0 8 true false).offNum.toInt = 0 := by decide
  simp [SigDesc.offset, this]

theorem test_witness_RawValueIsTheFieldInRange :
    1 ≤ (signal 0 1 true false).bits ∧ (signal 0 1 true false).signed = true ∧
    1 ≤ (signal 0 64 false false).bits ∧ (signal 0 64 false false).signed = false := by
  decide

theorem test_witness_DecodedPairIsTheExactPhysicalValue :
    let d := signal 7 64 true true (-0x80000000) 0xFFFFFFFF (-0x80000000) 0xFFFFFFFF
    1 ≤ d.bits ∧ d.bits ≤ 64 ∧ d.scaleDen.toNat ≠ 0 ∧ d.offDen.toNat ≠ 0 := by
  decide

theorem test_witness_FieldSetWritesExactlyTheField :
    fieldWithin 448 64 false 64 = true ∧ 2 ^ 64 - 1 < 2 ^ 64 ∧ fieldWithin 455 64 true 64 = true ∧
    fieldWithin 0 0 false 64 = true ∧ 0 < 2 ^ 0 ∧ 100 ∉ fieldBits 3 10 true := by
  decide

theorem test_witness_FieldBitsRunAsTheEndiannessSays :
    fieldBits 3 10 true = [10, 11, 12, 13, 14, 15, 0, 1, 2, 3] ∧ fieldBits 7 12 true =
      [12, 13, 14, 15, 0, 1, 2, 3, 4, 5, 6, 7] ∧ fieldBits 4 3 false = [4, 5, 6] ∧
    bitpos 3 10 true 5 % 8 = 7 ∧ bitpos 3 10 true (5 + 1) % 8 = 0 := by
  decide

theorem test_witness_FrameWordsPackFourBytes : 15 < 16 ∧ 3 < 4 ∧ target (0x100 + 4 * 15) = .fbuf 15 ∧ 59 / 4 ≠ 15 := by
  decide

theorem test_witness_EncodePacksClampedValues :
    demo.phase = .operate ∧ 0 < 64 ∧ (demo.msg 0).en = true ∧ MessageValid demo 0 (demo.msg 0) ∧
    (∀ j < (demo.msg 0).sigCount.toNat, ¬ (demo.slot j).refusedByEncode) :=
  ⟨rfl, by decide, by decide, demo_message_valid demo rfl rfl, by unfold Slot.refusedByEncode; decide⟩

theorem test_witness_EncodeRefusesASlotWithoutValue :
    let s : State := { demo with vals := [(1, { given 0 with den := 0 })] }
    s.phase = .operate ∧ 0 < 64 ∧ (s.msg 0).en = true ∧ 1 < (s.msg 0).sigCount.toNat ∧ (s.slot 1).refusedByEncode ∧
    (∀ k < 1, ¬ (s.slot k).refusedByEncode) := by
  unfold Slot.refusedByEncode
  decide

theorem test_witness_DecodeFillsTheSlots :
    demo.phase = .operate ∧ (demo.msg 0).en = true ∧ MessageValid demo 0 (demo.msg 0) ∧ demo.flen = (demo.msg 0).len :=
  ⟨rfl, by decide, demo_message_valid demo rfl rfl, by decide⟩

theorem test_witness_MessageErrorsAreReported :
    demo.phase = .operate ∧ (demo.msg 1).en = true ∧ demo.flen ≠ (demo.msg 1).len ∧ (demo.msg 1).csAlg ≠ .none ∧
    (demo.msg 4).en = true ∧ (demo.msg 4).csAlg = .none ∧ demo.flen ≠ (demo.msg 4).len ∧
    (demo.msg 3).en = true ∧ (demo.msg 3).csAlg = .counterOnly ∧ (demo.msg 4).cntEn = false := by
  decide

theorem test_witness_ReencodingADecodedFrameKeepsIt :
    demo.Inv ∧ demo.phase = .operate ∧ (demo.msg 0).en = true ∧ demo.flen = (demo.msg 0).len :=
  ⟨demo_inv, rfl, by decide, by decide⟩

theorem test_witness_EncodedValueDecodesWithinHalfAScale :
    demo.Inv ∧ demo.phase = .operate ∧ (demo.msg 0).en = true ∧
    (∀ k < (demo.msg 0).sigCount.toNat, ¬ (demo.slot k).refusedByEncode) ∧ 1 < (demo.msg 0).sigCount.toNat ∧
    (demo.slot 1).present = true ∧ (demo.slot 1).rawIn = false ∧
    (let d := demo.signalOf (demo.msg 0) 1
     let q := ((demo.slot 1).value - d.offset) / d.scale
     d.lo ≤ ratRound demo.rne q ∧ ratRound demo.rne q ≤ d.hi) := by
  refine ⟨demo_inv, rfl, by decide, by unfold Slot.refusedByEncode; decide, by decide, by decide, by decide, ?_⟩
  have h1 : (demo.slot 1).num.toInt = -26676 := by decide
  have h2 : (demo.slot 1).den.toNat = 100 := by decide
  have h3 : (demo.signalOf (demo.msg 0) 1).offNum.toInt = 0 := by decide
  have h4 : (demo.signalOf (demo.msg 0) 1).scaleNum.toInt = 1 := by decide
  have h5 : (demo.signalOf (demo.msg 0) 1).scaleDen.toNat = 100 := by decide
  have hl : (demo.signalOf (demo.msg 0) 1).lo = -32768 := by decide
  have hh : (demo.signalOf (demo.msg 0) 1).hi = 32767 := by decide
  have hq : ((demo.slot 1).value - (demo.signalOf (demo.msg 0) 1).offset) / (demo.signalOf (demo.msg 0) 1).scale = -26676 := by
    simp only [Slot.value, SigDesc.offset, SigDesc.scale, h1, h2, h3, h4, h5]
    norm_num
  have hr : ratRound demo.rne (-26676) = -26676 := by
    have hf : ⌊(26676 : ℚ) + 1 / 2⌋ = 26676 := by rw [Int.floor_eq_iff]; norm_num
    show ratRoundHA (-26676) = -26676
    unfold ratRoundHA ratSign
    rw [abs_of_neg (by norm_num), neg_neg, hf]
    norm_num
  simp only [hq, hr, hl, hh]
  decide

theorem test_witness_EncodedValueDecodesWithinHalfAScale_exact :
    ∃ r : ℤ, (demo.slot 1).value = r * (demo.signalOf (demo.msg 0) 1).scale + (demo.signalOf (demo.msg 0) 1).offset := by
  have h1 : (demo.slot 1).num.toInt = -26676 := by decide
  have h2 : (demo.slot 1).den.toNat = 100 := by decide
  have h3 : (demo.signalOf (demo.msg 0) 1).offNum.toInt = 0 := by decide
  have h4 : (demo.signalOf (demo.msg 0) 1).scaleNum.toInt = 1 := by decide
  have h5 : (demo.signalOf (demo.msg 0) 1).scaleDen.toNat = 100 := by decide
  refine ⟨-26676, ?_⟩
  simp only [Slot.value, SigDesc.offset, SigDesc.scale, h1, h2, h3, h4, h5]
  norm_num

theorem test_witness_CscompGivesTheChecksum :
    demo.phase = .operate ∧ (demo.msg 0).en = true ∧ (demo.msg 0).csAlg = .crc8 ∧ (demo.msg 2).en = true ∧
    (demo.msg 2).csAlg = .passthrough := by
  decide

theorem test_witness_CsinsWritesTheChecksumByte :
    demo.phase = .operate ∧ (demo.msg 0).en = true ∧ MessageValid demo 0 (demo.msg 0) ∧ (demo.msg 0).csAlg = .crc8 :=
  ⟨rfl, by decide, demo_message_valid demo rfl rfl, by decide⟩

theorem test_witness_CsvalReportsTheVerdict :
    demo.phase = .operate ∧ demo.flen = (demo.msg 0).len ∧ (demo.msg 0).csAlg = .crc8 ∧
    ({ demo with flen := 2 } : State).flen = (demo.msg 2).len ∧ (demo.msg 2).csAlg = .passthrough ∧
    ({ demo with flen := 2 } : State).flen = (demo.msg 3).len ∧ (demo.msg 3).csAlg = .counterOnly := by
  decide

theorem test_witness_InsertedChecksumValidates :
    demo.Inv ∧ demo.phase = .operate ∧ (demo.msg 0).en = true ∧ demo.flen = (demo.msg 0).len ∧ (demo.msg 0).csAlg = .crc8 :=
  ⟨demo_inv, rfl, by decide, by decide, by decide⟩

/-- Byte 6 is neither covered nor the checksum byte of message 0. -/
theorem test_witness_ExcludedBytesDoNotInfluenceTheVerdict :
    (∀ a < 5, (frame [0x17, 0x51, 0x97, 0xCC, 0x00, 0xDF, 0x77]).read a = demo.fbuf.read a) ∧
    (frame [0x17, 0x51, 0x97, 0xCC, 0x00, 0xDF, 0x77]).read 5 = demo.fbuf.read 5 ∧
    ((demo.msg 0).csEnd.toNat : Int) - (demo.msg 0).csExcl.toNat = 5 ∧
    frame [0x17, 0x51, 0x97, 0xCC, 0x00, 0xDF, 0x77] ≠ demo.fbuf := by
  decide

theorem test_witness_CounterIsReadAndStepped :
    demo.phase = .operate ∧ (demo.msg 0).en = true ∧ (demo.msg 0).cntEn = true := by
  decide

theorem test_witness_CounterIsWrittenInPlace :
    demo.phase = .operate ∧ (demo.msg 0).en = true ∧ (demo.msg 0).cntEn = true ∧ MessageValid demo 0 (demo.msg 0) :=
  ⟨rfl, by decide, by decide, demo_message_valid demo rfl rfl⟩

theorem test_witness_CommandsKeepTheFrameBeyondTheMessage :
    ({ demo with vals := [] } : State).Inv ∧
    ∃ t, exec (.encode 0 true) { demo with vals := [] } = .next t ∧ t.fbuf ≠ demo.fbuf :=
  ⟨⟨demo_inv.1, by decide +kernel, demo_inv.3, demo_inv.4, demo_inv.5, by decide⟩, _, rfl, by decide +kernel⟩

theorem test_witness_LimiterTickFollowsTheTransition :
    demo.Inv ∧ demo.phase = .operate ∧ 0 < 2 ∧ (demo.chan 0).en = true := ⟨demo_inv, rfl, by decide, by decide⟩

theorem test_witness_LimiterTickKeepsItsBounds :
    ({ demo with arg2 := 0xFFFFFF00 } : State).Inv ∧ demo.phase = .operate ∧ 0 < 2 ∧ (demo.chan 0).en = true ∧
    ∃ t, exec (.lstep 0) { demo with arg2 := 0xFFFFFF00 } = .next t ∧ (t.chan 0).ovr = true :=
  ⟨⟨demo_inv.1, demo_inv.2, demo_inv.3, demo_inv.4, demo_inv.5, by decide⟩, rfl, by decide, by decide, _, rfl,
    by decide +kernel⟩

theorem test_witness_PermanentFaultIsLatched :
    (∃ t, exec (.lstep 0) { demo with arg3 := 1 } = .next t ∧ (t.chan 0).perm = true) ∧
    (∃ t, step { demo with chans := [(0, p3Channel 0 0 true)] } = .next t) ∧
    (({ demo with chans := [(0, p3Channel 0 0 true)] } : State).chan 0).perm = true :=
  ⟨⟨_, rfl, by decide +kernel⟩, ⟨_, rfl⟩, by decide⟩

theorem test_witness_ChannelResetClearsTheLimiterState :
    demo.phase = .operate ∧ 0 < 2 ∧ (demo.chan 0).en = true ∧ (demo.chan 0).last ≠ 0 := by
  decide

theorem test_witness_LockAcceptsExactlyTheValidCatalogs :
    smallConfig.phase = .config ∧ CatalogValid smallConfig ∧
    ¬ CatalogValid { smallConfig with msgs := [(0, { p1Message with len := 0 })] } :=
  ⟨rfl, smallConfig_valid, smallConfig_invalid⟩

/-- Two messages with one bus and address (T-C14). -/
def duplicateState : State :=
  { State.reset with
    msgs := [(0, plainMessage 8 1), (1, plainMessage 8 1)], sigs := [(0, signal 0 8 false false)] }

theorem duplicateState_first_valid : MessageValid duplicateState 0 (duplicateState.msg 0) := by
  refine ⟨by decide, by decide, by decide, by decide, by decide, by decide, ?_, by decide, by decide, by decide, by decide,
    by decide, by decide, fun i h => by omega⟩
  intro a b hab hb
  have : b < 1 := hb
  omega

/-- T-C14: message 1 passes every check but the last. -/
theorem test_witness_LockReportsTheFirstFailure_last_check :
    duplicateState.phase = .config ∧ (duplicateState.msg 1).en = true ∧
    MessageValid duplicateState 0 (duplicateState.msg 0) ∧ (∀ k < 14, ∀ j, ¬ FailsCheck duplicateState 1 k j) ∧
    FailsCheck duplicateState 1 14 0xFF := by
  refine ⟨rfl, by decide, duplicateState_first_valid, fun k hk j => ?_, rfl, 0, by decide, by decide, by decide, by decide⟩
  rcases (by omega : k = 0 ∨ k = 7 ∨ (3 ≤ k ∧ k < 7) ∨ (1 ≤ k ∧ k < 3) ∨ (8 ≤ k ∧ k < 14)) with
    rfl | rfl | ⟨h, h'⟩ | ⟨h, h'⟩ | ⟨h, h'⟩
  · exact id
  · rintro ⟨h, ⟨a, ha, -⟩, -⟩
    have : j < 1 := h
    omega
  · interval_cases k <;> rintro ⟨h, hf, -⟩ <;> obtain rfl : j = 0 := Nat.lt_one_iff.1 h <;> exact absurd hf (by decide)
  all_goals interval_cases k <;> rintro ⟨-, hf⟩ <;> revert hf <;> decide

/-- T-C1a: the first check. -/
theorem test_witness_LockReportsTheFirstFailure_first_check :
    let s := lockState (plainMessage 0 1) [(0, signal 0 8 false false)]
    s.phase = .config ∧ (s.msg 0).en = true ∧ (∀ k < 1, ∀ j, ¬ FailsCheck s 0 k j) ∧ FailsCheck s 0 1 0xFF := by
  refine ⟨rfl, by decide, fun k hk j => ?_, rfl, .inl (by decide)⟩
  obtain rfl : k = 0 := by omega
  exact id

/-- A check that names a slot: the second of two signals has length 0. -/
theorem test_witness_LockReportsTheFirstFailure_slot :
    let s := lockState (plainMessage 8 2) [(0, signal 0 8 false false)]
    (∀ k < 3, ∀ j, ¬ FailsCheck s 0 k j) ∧ FailsCheck s 0 3 1 := by
  refine ⟨fun k hk j => ?_, by decide, by decide, by decide⟩
  interval_cases k
  · exact id
  · rintro ⟨-, h⟩; revert h; decide
  · rintro ⟨-, h⟩; revert h; decide

theorem test_witness_LockReportsTheFirstFailure_channel :
    let s : State := { State.reset with chans := [(1, { Channel.reset with en := true, errThresh := 0xFFFFFFFF })] }
    s.phase = .config ∧ (s.chan 1).en = true ∧ (∀ i < 64, (s.msg i).en = false) ∧ (s.chan 0).en = false ∧
    (s.chan 1).limits[6]? = some 0xFFFFFFFF#32 ∧ (0xFFFFFFFF#32).toInt < 0 ∧
    (s.chan 1).limits.take 6 = List.replicate 6 0 := by
  decide +kernel

theorem test_witness_LookupFindsTheMessage :
    (let s : State := { demo with arg0 := 0, arg1 := 0x1D3 }
     s.Inv ∧ s.phase = .operate ∧ (s.msg 1).en = true ∧ (s.msg 1).bus = s.arg0.extractLsb' 0 8 ∧ (s.msg 1).addr = s.arg1) ∧
    (let s : State := { demo with arg0 := 1, arg1 := 0x1D3 }
     ∀ i < 64, (s.msg i).en = true → ¬ ((s.msg i).bus = s.arg0.extractLsb' 0 8 ∧ (s.msg i).addr = s.arg1)) :=
  ⟨⟨⟨demo_inv.1, demo_inv.2, demo_inv.3, demo_inv.4, demo_inv.5, by decide⟩, rfl, by decide, by decide, by decide⟩,
    by decide +kernel⟩

theorem test_witness_OnlyLockAndResetChangeThePhase :
    (∃ t, exec .lock smallConfig = .next t ∧ t.err = .none) ∧
    (∃ t, step (smallConfig.withFetchWord 32 0xF) = .next t ∧ t.phase ≠ smallConfig.phase) ∧
    (∃ t, step { demo with host := [.setReset true] } = .next t ∧ t.phase ≠ demo.phase) :=
  ⟨⟨_, rfl, by decide +kernel⟩, ⟨_, rfl, by decide +kernel⟩, ⟨_, rfl, by decide +kernel⟩⟩

theorem test_witness_CatalogIsFrozenInOperate :
    ∃ t, step { demo with host := [.write 4 0x2000 0] } = .next t ∧ demo.phase = .operate ∧ t.phase = .operate :=
  ⟨_, rfl, by decide +kernel, by decide +kernel⟩

/-- A state with a latched command and one access to come. -/
def busyFacing (e : HostEvent) : State := { demo with cmd := 1, pending := some 1#32, wait := 1, host := [e] }

theorem busyFacing_facing (e : HostEvent) : (busyFacing e).facing e := ⟨.inr (by decide : (1 : Nat) ≠ 0), rfl, _, rfl⟩

theorem busyFacing_inv (e : HostEvent) : (busyFacing e).Inv :=
  ⟨demo_inv.1, demo_inv.2, rfl, demo_catalog _ rfl rfl rfl rfl, demo_inv.5, rfl⟩

/-- A state without a latched command and one access to come. -/
theorem demo_facing (e : HostEvent) : ({ demo with host := [e] } : State).facing e := ⟨.inl rfl, rfl, _, rfl⟩

theorem demoConfig_facing (e : HostEvent) : ({ demoConfig with host := [e] } : State).facing e := ⟨.inl rfl, rfl, _, rfl⟩

theorem demo_facing_inv (e : HostEvent) : ({ demo with host := [e] } : State).Inv :=
  ⟨demo_inv.1, demo_inv.2, rfl, demo_catalog _ rfl rfl rfl rfl, demo_inv.5, rfl⟩

theorem demo_not_busy (e : HostEvent) (off : BitVec 16) :
    ¬ ({ demo with host := [e] } : State).droppedWhileBusy off := fun h => by cases h.1

theorem config_not_frozen (e : HostEvent) (off : BitVec 16) :
    ¬ ({ demoConfig with host := [e] } : State).droppedAsFrozen off := fun h => by cases h.1

/-- The three cases at their boundary offsets; a running command, OPERATE, and `CTRL`; and a write in none of them. -/
theorem test_witness_DroppedWritesSetWdrop :
    ((busyFacing (.write 4 0x010 0)).facing (.write 4 0x010 0) ∧
      (busyFacing (.write 4 0x010 0)).droppedWhileBusy 0x010) ∧
    (∀ off ∈ [0x2000#16, 0x27FC#16, 0x4000#16, 0x7FFC#16, 0x8000#16, 0x8020#16, 0x8040#16, 0x8060#16],
      demo.droppedAsFrozen off ∧ off.toNat % 4 = 0) ∧
    demo.ctrlBitsDropped 0x008 0xA ∧
    (¬ demo.droppedWhileBusy 0x8024 ∧ ¬ demo.droppedAsFrozen 0x8024 ∧ ¬ demo.ctrlBitsDropped 0x8024 0) := by
  refine ⟨⟨busyFacing_facing _, rfl, by decide, by decide⟩, fun off h => ?_, ⟨rfl, rfl, .inr (by decide)⟩, ?_, ?_, ?_⟩
  · unfold State.droppedAsFrozen frozenOffset
    fin_cases h <;> decide
  · exact fun h => by cases h.1
  · exact fun h => by
      have := h.2
      unfold frozenOffset at this
      revert this
      decide
  · exact fun h => by
      have := h.2.1
      revert this
      decide

/-- The first and the last offset of each reserved range, read while a command runs and written while none does. -/
theorem test_witness_ReservedOffsetsReadZeroAndIgnoreWrites :
    (∀ off ∈ [0x034#16, 0x0FC#16, 0x140#16, 0xFFC#16, 0x2800#16, 0x3FFC#16, 0x8080#16, 0xFFFC#16, 0x1024#16, 0x1FFC#16,
        0x2018#16, 0x27FC#16, 0x4014#16, 0x7FFC#16, 0x8030#16, 0x807C#16],
      off.toNat % 4 = 0 ∧ reservedOffset off.toNat ∧ (busyFacing (.read 4 off)).Inv ∧
      (busyFacing (.read 4 off)).facing (.read 4 off) ∧
      ({ demo with host := [.write 4 off 5] } : State).Inv ∧
      ({ demo with host := [.write 4 off 5] } : State).facing (.write 4 off 5)) ∧
    (∀ off ∈ [0x034#16, 0x1024#16, 0x3FFC#16, 0x8030#16, 0x807C#16], ¬ demo.droppedAsFrozen off) ∧
    demo.busy = false ∧ demoConfig.busy = false ∧ ¬ demoConfig.droppedAsFrozen 0x2018 := by
  refine ⟨fun off h => ⟨?_, ?_, busyFacing_inv _, busyFacing_facing _, demo_facing_inv _, demo_facing _⟩, fun off h => ?_,
    rfl, rfl, fun h => by cases h.1⟩
  · fin_cases h <;> decide
  · unfold reservedOffset
    fin_cases h <;> decide
  · unfold State.droppedAsFrozen frozenOffset
    fin_cases h <;> decide

/-- The writes R260 allows in OPERATE, `CTRL` with equal bits [3:2] among them; `CTRL` while a command runs; a descriptor in
CONFIG. -/
theorem test_witness_WindowWordsReadBackWhatWasWritten :
    (∀ off ∈ [0x008#16, 0x100#16, 0x13C#16, 0x020#16, 0x024#16, 0x030#16, 0x1000#16, 0x1FE0#16],
      let s : State := { demo with host := [.write 4 off 0x2] }
      s.facing (.write 4 off 0x2) ∧ off.toNat % 4 = 0 ∧ off ≠ 0x00C ∧ off ≠ 0x010 ∧
      ¬ s.droppedWhileBusy off ∧ ¬ s.droppedAsFrozen off ∧ ¬ s.ctrlBitsDropped off 0x2) ∧
    (let s := busyFacing (.write 4 0x008 0x2)
     s.facing (.write 4 0x008 0x2) ∧ ¬ s.droppedWhileBusy 0x008 ∧ ¬ s.droppedAsFrozen 0x008 ∧
      ¬ s.ctrlBitsDropped 0x008 0x2) ∧
    (let s : State := { demoConfig with host := [.write 4 0x4000 7] }
     s.facing (.write 4 0x4000 7) ∧ ¬ s.droppedWhileBusy 0x4000 ∧ ¬ s.droppedAsFrozen 0x4000 ∧
      ¬ s.ctrlBitsDropped 0x4000 7) := by
  refine ⟨fun off h => ⟨demo_facing _, ?_, ?_, ?_, demo_not_busy _ _, ?_, ?_⟩,
    ⟨busyFacing_facing _, fun h => h.2.1 rfl, ?_, ?_⟩,
    ⟨demoConfig_facing _, fun h => (by cases h.1), config_not_frozen _ _, fun h => (by cases h.1)⟩⟩
  · fin_cases h <;> decide
  · fin_cases h <;> decide
  · fin_cases h <;> decide
  · unfold State.droppedAsFrozen frozenOffset
    fin_cases h <;> decide
  · unfold State.ctrlBitsDropped
    fin_cases h <;> decide
  · unfold State.droppedAsFrozen frozenOffset
    decide
  · unfold State.ctrlBitsDropped
    decide

/-- The first and the last word of each register file. -/
theorem test_witness_RegisterFileWordsHoldTheirFields :
    (∀ off ∈ [0x2000#16, 0x27FC#16, 0x4000#16, 0x7FFC#16, 0x8000#16, 0x807C#16, 0x1000#16, 0x1FFC#16],
      ({ demoConfig with host := [.write 4 off 7] } : State).facing (.write 4 off 7)) ∧
    demoConfig.pending = none ∧ demoConfig.phase = .config ∧
    0x2000 + 32 * 63 + 4 * 7 = 0x27FC ∧ 0x4000 + 32 * 511 + 4 * 7 = 0x7FFC ∧ 0x8000 + 64 * 1 + 4 * 15 = 0x807C ∧
    0x1000 + 64 * 63 + 4 * 15 = 0x1FFC ∧ (demo.phase = .operate ∧ demo.pending = none) :=
  ⟨fun _ _ => demoConfig_facing _, rfl, rfl, rfl, rfl, rfl, rfl, rfl, rfl⟩

/-- A running command, and reads that are listed in R71 and reads that are not. -/
theorem test_witness_BusyReadsAreCurrentOrFree :
    (∀ off ∈ [0x000#16, 0x010#16, 0x27FC#16, 0x7FFC#16, 0x8020#16, 0x8060#16],
      (busyFacing (.read 4 off)).Inv ∧ (busyFacing (.read 4 off)).facing (.read 4 off) ∧ off.toNat % 4 = 0 ∧
      (busyFacing (.read 4 off)).busy = true) ∧
    (∀ off ∈ [0x014#16, 0x030#16, 0x100#16, 0x13C#16, 0x1000#16, 0x1FE0#16, 0x8024#16, 0x806C#16],
      (busyFacing (.read 4 off)).facing (.read 4 off) ∧ off.toNat % 4 = 0 ∧ ¬ reservedOffset off.toNat ∧
      ¬ (off.toNat ≤ 0x010 ∨ frozenOffset off.toNat)) := by
  refine ⟨fun off h => ⟨busyFacing_inv _, busyFacing_facing _, ?_, rfl⟩, fun off h => ⟨busyFacing_facing _, ?_, ?_, ?_⟩⟩
  · fin_cases h <;> decide
  · fin_cases h <;> decide
  · unfold reservedOffset
    fin_cases h <;> decide
  · unfold frozenOffset
    fin_cases h <;> decide

theorem test_witness_IdleReadsReturnTheRegister :
    ({ demo with host := [.read 4 0x8024] } : State).facing (.read 4 0x8024) ∧ (0x8024#16).toNat % 4 = 0 ∧
    demo.pending = none := ⟨⟨.inl rfl, rfl, _, rfl⟩, by decide, rfl⟩

theorem test_witness_StatusRegisterLayoutAndClearing :
    ({ demo with host := [.write 4 0x00C 0x22] } : State).facing (.write 4 0x00C 0x22) := ⟨.inl rfl, rfl, _, rfl⟩

theorem test_witness_CommandWriteIsAccepted :
    ({ demo with host := [.write 4 0x010 1] } : State).facing (.write 4 0x010 1) ∧ demo.pending = none :=
  ⟨⟨.inl rfl, rfl, _, rfl⟩, rfl⟩

theorem test_witness_MisshapenAccessesAreBusErrors :
    ({ demo with host := [.read 2 0x100] } : State).facing (.read 2 0x100) ∧ 2 ≠ 4 ∧
    ({ demo with host := [.write 4 0x102 0] } : State).facing (.write 4 0x102 0) ∧ (0x102#16).toNat % 4 ≠ 0 ∧
    ({ demo with host := [.read 4 0xFFFC] } : State).facing (.read 4 0xFFFC) ∧ (0xFFFC#16).toNat % 4 = 0 :=
  ⟨⟨.inl rfl, rfl, _, rfl⟩, by decide, ⟨.inl rfl, rfl, _, rfl⟩, by decide, ⟨.inl rfl, rfl, _, rfl⟩, by decide⟩

theorem test_witness_InterruptFollowsDoneAndEnable :
    (∃ t, step (demo.withFetchWord 32 0) = .next t ∧ (demo.withFetchWord 32 0).done = false ∧ t.done = true) ∧
    ({ demo with host := [.write 4 0x00C 2] } : State).facing (.write 4 0x00C 2) ∧ (2#32).getLsbD 1 = true ∧
    ({ demo with host := [.write 4 0x010 0] } : State).facing (.write 4 0x010 0) ∧ demo.pending = none ∧
    ({ demo with host := [.write 4 0x008 0] } : State).facing (.write 4 0x008 0) ∧ (0#32).getLsbD 1 = false :=
  ⟨⟨_, rfl, by decide, by decide⟩, ⟨.inl rfl, rfl, _, rfl⟩, by decide, ⟨.inl rfl, rfl, _, rfl⟩, rfl,
    ⟨.inl rfl, rfl, _, rfl⟩, by decide⟩

/-- Whatever `BASE` is, the address just above the window is outside it. -/
theorem test_witness_WindowIsTheAlignedBlockAtBase : Config.base + 65536 ≤ Config.base + 65536 := le_rfl

theorem test_witness_ResetLeavesTheValuesOfTheTable : (0xFFFC#16).toNat % 4 = 0 ∧ (0x1010#16).toNat % 64 = 0x10 := by
  decide

theorem test_witness_ResetInputRestoresTheResetState :
    ({ demo with host := [.setReset true] } : State).hostMoves ∧
    (let s : State := { State.reset with resetLine := true, host := [.read 4 0x00C] }
     s.Inv ∧ s.resetLine = true ∧ s.host = [.read 4 0x00C]) :=
  ⟨.inl rfl, ⟨⟨by decide, by decide, by decide, by decide +kernel, by decide, by decide⟩, rfl, rfl⟩⟩

theorem test_witness_EveryStepKeepsTheInvariant :
    (demo.withFetchWord 32 0x10).Inv ∧ ∃ t, step (demo.withFetchWord 32 0x10) = .next t ∧ t.chans ≠ demo.chans :=
  ⟨⟨demo_inv.1, demo_inv.2, by decide, demo_inv.4, demo_inv.5, by decide⟩, _, rfl, by decide +kernel⟩

end Sys2Proof.Tests
end

section
/-! The result of a command, command by command: which state each one ends in, so that a claim about every command is a case
split over the ways to end and not over the arms of `exec`. -/

namespace Sys2Proof.Machine

/-- The state `t` in which the command `i` ends when it runs in `s`: it raises an error, it answers in the result registers
and `CSUM_VALID` only, or it is one of the commands that write the frame, a register file or the phase. -/
inductive CommandResult (s : State) : Instr → State → Prop where
  | raised (i : Instr) (c : ErrCode) (e : ErrInfo) : CommandResult s i (s.raise c e)
  | answered (i : Instr) (r0 r1 : Word) (valid : Bool) :
      CommandResult s i ({ s with result0 := r0, result1 := r1, csumValid := valid } : State).complete
  | encoded {idx : Nat} (clr : Bool) (hp : s.phase = .operate) (hi : idx < 64) (he : (s.msg idx).en = true) :
      CommandResult s (.encode idx clr) (encodeMessage (s.msg idx) clr s).complete
  | decoded {idx : Nat} (hp : s.phase = .operate) (hi : idx < 64) (he : (s.msg idx).en = true) :
      CommandResult s (.decode idx) (decodeMessage (s.msg idx) s).complete
  | checksumInserted {idx : Nat} {c : Byte} (hp : s.phase = .operate) (hi : idx < 64) (he : (s.msg idx).en = true)
      (hc : (s.msg idx).computed s.fbuf = some c) :
      CommandResult s (.csins idx)
        ({ s with fbuf := s.fbuf.write (s.msg idx).csPos.toNat c, result0 := c.setWidth 32 } : State).complete
  | counterWritten {idx : Nat} (hp : s.phase = .operate) (hi : idx < 64) (he : (s.msg idx).en = true)
      (hc : (s.msg idx).cntEn = true) :
      CommandResult s (.cntwr idx)
        ({ s with fbuf := (s.msg idx).counterPut s.fbuf (s.arg0.toNat % (s.msg idx).counterModulus) } : State).complete
  | valuesCleared : CommandResult s .vclr ({ s with vals := [] } : State).complete
  | locked (hp : s.phase = .config) (hl : lockFailure s = none) :
      CommandResult s .lock ({ s with phase := .operate } : State).complete
  | ticked {idx : Nat} (hp : s.phase = .operate) (hi : idx < 2) (he : (s.chan idx).en = true) :
      CommandResult s (.lstep idx)
        ({ s.setChan idx ((s.chan idx).afterTick (s.tickOf (s.chan idx))) with
          result0 := BitVec.ofInt 32 (s.tickOf (s.chan idx)).applied
          result1 := (s.tickOf (s.chan idx)).resultFlags } : State).complete
  | limiterCleared {idx : Nat} (hp : s.phase = .operate) (hi : idx < 2) (he : (s.chan idx).en = true) :
      CommandResult s (.lrst idx) (s.setChan idx (s.chan idx).cleared).complete

/-- A command that raises an error of its own ends in that error. -/
theorem CommandResult.of_failCommand {s t : State} {i : Instr} {c : ErrCode} {idx : Nat}
    (h : failCommand c idx s = .next t) : CommandResult s i t := by
  obtain rfl := next_inj h
  exact .raised ..

/-- The result of a message command, given the result of its own rule on a message that passes the common checks. -/
theorem CommandResult.of_withMessage {s t : State} {i : Instr} {idx : Nat} {body : MsgDesc → Result}
    (h : withMessage idx s body = .next t)
    (own : s.phase = .operate → idx < 64 → (s.msg idx).en = true → body (s.msg idx) = .next t → CommandResult s i t) :
    CommandResult s i t := by
  rcases withMessage_cases idx s body with ⟨c, -, hc⟩ | ⟨hp, hi, he, hb⟩
  · exact .of_failCommand (hc ▸ h)
  · exact own hp hi he (hb ▸ h)

/-- The result of a channel command, given the result of its own rule on a channel that passes the common checks. -/
theorem CommandResult.of_withChannel {s t : State} {i : Instr} {idx : Nat} {body : Channel → Result}
    (h : withChannel idx s body = .next t)
    (own : s.phase = .operate → idx < 2 → (s.chan idx).en = true → body (s.chan idx) = .next t → CommandResult s i t) :
    CommandResult s i t := by
  rcases withChannel_cases idx s body with ⟨c, -, hc⟩ | ⟨hp, hi, he, hb⟩
  · exact .of_failCommand (hc ▸ h)
  · exact own hp hi he (hb ▸ h)

/-- The result of a counter command, given its result on a message with a CounterSpec. -/
theorem CommandResult.of_withCounter {s t : State} {i : Instr} {idx : Nat} {body : MsgDesc → State}
    (h : withCounter idx s body = .next t)
    (own : s.phase = .operate → idx < 64 → (s.msg idx).en = true → (s.msg idx).cntEn = true →
      CommandResult s i (body (s.msg idx)).complete) :
    CommandResult s i t :=
  .of_withMessage h fun hp hi he hb => by
    split at hb
    · obtain rfl := next_inj hb
      exact own hp hi he ‹_›
    · exact .of_failCommand hb

/-- What a command that answers a next state did. -/
theorem exec_result {i : Instr} {s t : State} (h : exec i s = .next t) : CommandResult s i t := by
  cases i with
  | nop =>
    obtain rfl := next_inj h
    exact .answered .nop s.result0 s.result1 s.csumValid
  | encode idx clr =>
    refine .of_withMessage h fun hp hi he hb => ?_
    split at hb
    · obtain rfl := next_inj hb
      exact .raised ..
    · obtain rfl := next_inj hb
      exact .encoded clr hp hi he
  | decode idx =>
    refine .of_withMessage h fun hp hi he hb => ?_
    split at hb
    · obtain rfl := next_inj hb
      exact .decoded hp hi he
    · exact .of_failCommand hb
  | cscomp idx =>
    refine .of_withMessage h fun _ _ _ hb => ?_
    split at hb
    · exact .of_failCommand hb
    · obtain rfl := next_inj hb
      exact .answered _ _ s.result1 s.csumValid
  | csins idx =>
    refine .of_withMessage h fun hp hi he hb => ?_
    split at hb
    · exact .of_failCommand hb
    · obtain rfl := next_inj hb
      exact .checksumInserted hp hi he ‹_›
  | csval idx =>
    refine .of_withMessage h fun _ _ _ hb => ?_
    split at hb
    · exact .of_failCommand hb
    · split at hb
      · obtain rfl := next_inj hb
        exact .answered ..
      · exact .of_failCommand hb
  | cntrd idx => exact .of_withCounter h fun _ _ _ _ => .answered _ _ s.result1 s.csumValid
  | cntwr idx => exact .of_withCounter h fun hp hi he hc => .counterWritten hp hi he hc
  | cntnxt idx => exact .of_withCounter h fun _ _ _ _ => .answered _ _ s.result1 s.csumValid
  | lookup =>
    simp only [exec, execLookup, needOperate] at h
    split at h
    · exact .of_failCommand h
    · split at h
      · obtain rfl := next_inj h
        exact .answered _ _ s.result1 s.csumValid
      · exact .of_failCommand h
  | vclr =>
    obtain rfl := next_inj h
    exact .valuesCleared
  | lock =>
    simp only [exec, execLock] at h
    split at h
    · exact .of_failCommand h
    · split at h
      · obtain rfl := next_inj h
        exact .raised ..
      · obtain rfl := next_inj h
        exact .locked ‹_› ‹_›
  | lstep idx =>
    refine .of_withChannel h fun hp hi he hb => ?_
    obtain rfl := next_inj hb
    exact .ticked hp hi he
  | lrst idx =>
    refine .of_withChannel h fun hp hi he hb => ?_
    obtain rfl := next_inj hb
    exact .limiterCleared hp hi he

end Sys2Proof.Machine
end

section
/-! A catalog in which `LOCK` finds no failure is one that the table of R232 accepts (43_control R231, R232). -/

namespace Sys2Proof.Machine

theorem lockFailure_none_iff {s : State} :
    lockFailure s = none ↔ (∀ i < 64, messageFailure s i = none) ∧ ∀ c < 2, channelFailure s c = none := by
  have messages : (List.range Config.nmsg).findSome? (messageFailure s) = none ↔ ∀ i < 64, messageFailure s i = none := by
    simp
  have channels : (List.range Config.nchan).findSome? (channelFailure s) = none ↔ ∀ c < 2, channelFailure s c = none := by
    simp [Config.nchan]
  rw [← messages, ← channels, lockFailure]
  split
  · simp [*]
  · simp [*]

theorem messageFailure_none_iff {s : State} {i : Nat} (he : (s.msg i).en = true) :
    messageFailure s i = none ↔ ∀ code, 1 ≤ code ∧ code < 15 → checkMessage s i code = none := by
  simp only [messageFailure, he, if_true, List.findSome?_eq_none_iff, Option.map_eq_none_iff, List.mem_range'_1]

theorem channelFailure_none_iff {s : State} {c : Nat} (he : (s.chan c).en = true) :
    channelFailure s c = none ↔ ∀ w ∈ (s.chan c).limits, 0 ≤ w.toInt := by
  simp [channelFailure, he]

/-- A message that passes the checks 0x01 to 0x0E is valid as R232 words it. -/
theorem messageValid_of_checks {s : State} {i : Nat}
    (h : ∀ code, 1 ≤ code ∧ code < 15 → checkMessage s i code = none) : MessageValid s i (s.msg i) := by
  have plain (code : Nat) {b : Bool} (hc : 1 ≤ code ∧ code < 15) (hb : checkMessage s i code = failsWithoutSlot b) :
      b = false := failsWithoutSlot_none.1 (hb ▸ h code hc)
  have slotted (code : Nat) {n : Nat} {f : Nat → Bool} (hc : 1 ≤ code ∧ code < 15)
      (hf : checkMessage s i code = lowestFailing n f) : ∀ j < n, f j = false := lowestFailing_none.1 (hf ▸ h code hc)
  constructor
  case len => have c := plain 0x01 (by decide) rfl; simp [Config.maxLen] at c; omega
  case signalRange => simpa using plain 0x02 (by decide) rfl
  case signalLength =>
    intro j hj
    have c := slotted 0x03 (by decide) rfl j hj
    simp [Config.maxSigLen] at c
    omega
  case scaleNonzero => exact fun j hj => mt (bv_eq_zero_toInt _).2 (by simpa using slotted 0x04 (by decide) rfl j hj)
  case denNonzero =>
    intro j hj
    rw [Ne, Ne, ← bv_eq_zero_toNat, ← bv_eq_zero_toNat]
    simpa using slotted 0x05 (by decide) rfl j hj
  case withinFrame => exact fun j hj => by simpa using slotted 0x06 (by decide) rfl j hj
  case noOverlap =>
    intro a b hab hb
    have c := List.any_eq_false.1 (slotted 0x07 (by decide) rfl b hb) a (by simpa)
    exact shareBit_false.1 (by simpa using c)
  case csPos => intro ha; simpa [ha] using plain 0x08 (by decide) rfl
  case csRange => intro ha; simpa [ha] using plain 0x09 (by decide) rfl
  case csPosNotCovered => intro ha; have c := plain 0x0A (by decide) rfl; simp [ha] at c; omega
  case counterOnly => intro ha; simpa [ha] using plain 0x0B (by decide) rfl
  case counterWidth => intro ha; have c := plain 0x0C (by decide) rfl; simp [ha, Config.maxCntW] at c; omega
  case counterWithin => intro ha; simpa [ha] using plain 0x0D (by decide) rfl
  case unique =>
    intro j hj he
    have c := List.any_eq_false.1 (plain 0x0E (by decide) rfl) j (by simpa)
    simpa [he] using c

theorem channelValid_of_limits {c : Channel} (h : ∀ w ∈ c.limits, 0 ≤ w.toInt) : ChannelValid c := by
  constructor <;> exact h _ (by simp [Channel.limits])

theorem catalogValid_of_lockFailure {s : State} (h : lockFailure s = none) : CatalogValid s where
  messages i hi he := messageValid_of_checks ((messageFailure_none_iff he).1 ((lockFailure_none_iff.1 h).1 i hi))
  channels c hc he := channelValid_of_limits ((channelFailure_none_iff he).1 ((lockFailure_none_iff.1 h).2 c hc))

theorem State.locked_iff {s : State} : s.locked = true ↔ s.phase = .operate := by simp [State.locked]

theorem State.catalogOk_iff {s : State} : s.catalogOk = true ↔ (s.phase = .operate → lockFailure s = none) := by
  simp only [State.catalogOk, State.locked]
  cases s.phase <;> simp

/-- In OPERATE the invariant gives a valid catalog (20_memory R70). -/
theorem State.Inv.catalogValid {s : State} (h : s.Inv) (hp : s.phase = .operate) : CatalogValid s :=
  catalogValid_of_lockFailure (State.catalogOk_iff.1 h.catalog hp)

end Sys2Proof.Machine
end

section
/-! A tick of the limiter keeps the bounds that the invariant asks of a channel (42_limiter R207, R213). -/

namespace Sys2Proof.Machine

/-! ### What the invariant asks of a channel -/

theorem Channel.idle_iff {c : Channel} :
    c.idle = true ↔ c.last = 0 ∧ c.errAcc = 0 ∧ c.temp = false ∧ c.perm = false ∧ c.ovr = false := by
  simp [Channel.idle, and_assoc]

/-- A channel that no `LSTEP` can name has to be idle. -/
theorem Channel.ok_iff_idle {c : Channel} {locked : Bool} (h : (locked && c.en) = false) :
    c.ok locked = true ↔ c.idle = true := by
  simp only [Channel.ok, h, Bool.false_eq_true, if_false, Bool.and_eq_true, decide_eq_true_eq, and_iff_right_iff_imp]
  intro hi
  obtain ⟨-, ha, ht, -⟩ := Channel.idle_iff.1 hi
  simp [ha, ht]

/-- What the invariant asks of an enabled channel in OPERATE. -/
theorem Channel.ok_iff_bounded {c : Channel} (he : c.en = true) :
    c.ok true = true ↔
      c.temp = decide (c.errAcc.toNat > c.errMax.toNat) ∧ (c.last.toInt.natAbs : Int) ≤ c.max.toInt := by
  simp [Channel.ok, he]

/-- An idle channel is as the invariant asks, in OPERATE too, if its `MAX` is not negative when it is enabled. -/
theorem Channel.ok_of_idle {c : Channel} (hi : c.idle = true) (hm : c.en = true → 0 ≤ c.max.toInt) (locked : Bool) :
    c.ok locked = true := by
  cases hl : locked && c.en
  · exact (Channel.ok_iff_idle hl).2 hi
  · obtain ⟨rfl, he⟩ := Bool.and_eq_true_iff.1 hl
    obtain ⟨hlast, hacc, htemp, -⟩ := Channel.idle_iff.1 hi
    rw [Channel.ok_iff_bounded he]
    exact ⟨by simp [hacc, htemp], by simpa [hlast] using hm he⟩

theorem State.limiterOk_iff {s : State} : s.limiterOk = true ↔ ∀ c < 2, (s.chan c).ok s.locked = true := by
  simp [State.limiterOk]

/-! ### The tick -/

/-- A step of width `w` from `last` to `target` ends between the two. -/
theorem clamped_step_bound {last target w bound : Int} (hw : 0 ≤ w) (hl : (last.natAbs : Int) ≤ bound)
    (ht : (target.natAbs : Int) ≤ bound) : ((last + clamp (target - last) (-w) w).natAbs : Int) ≤ bound := by
  unfold clamp
  omega

theorem Channel.target_bound {c : Channel} (hm : 0 ≤ c.max.toInt) (d : Int) (ov : Bool) :
    ((c.target d ov).natAbs : Int) ≤ c.max.toInt := by
  unfold Channel.target Channel.desired clamp
  split <;> omega

theorem Channel.stepWidth_nonneg {c : Channel} (hv : ChannelValid c) (d : Int) (ov : Bool) : 0 ≤ c.stepWidth d ov := by
  unfold Channel.stepWidth
  split
  · exact add_nonneg hv.deltaDown (mul_nonneg hv.drvMult hv.drvFactor)
  · split
    · exact hv.deltaDown
    · exact hv.deltaUp

/-- R213: the applied output of a tick stays within `MAX`. -/
theorem Channel.tick_applied_bound {c : Channel} (hv : ChannelValid c) (hl : (c.last.toInt.natAbs : Int) ≤ c.max.toInt)
    (d meas drv : Int) (vf : Bool) : ((c.tick d meas drv vf).applied.natAbs : Int) ≤ c.max.toInt :=
  clamped_step_bound (c.stepWidth_nonneg hv _ _) hl (c.target_bound hv.max _ _)

/-- The accumulator of a tick fits its register (R206). -/
theorem Channel.tick_acc_range (c : Channel) (d meas drv : Int) (vf : Bool) :
    0 ≤ (c.tick d meas drv vf).acc ∧ (c.tick d meas drv vf).acc < 2 ^ 32 := by
  simp only [Channel.tick, Channel.nextAcc]
  split <;> omega

/-- The register `LAST` holds an output that is within `MAX`. -/
theorem toInt_ofInt_of_bound {x : Int} {max : Word} (h : (x.natAbs : Int) ≤ max.toInt) :
    (BitVec.ofInt 32 x).toInt = x := by
  have := max.toInt_lt
  exact BitVec.toInt_ofInt_eq_self (by decide) (by omega) (by omega)

/-- The register `ERR_ACC` holds an accumulator that is in its range. -/
theorem toNat_ofInt_of_range {x : Int} (h : 0 ≤ x ∧ x < 2 ^ 32) : ((BitVec.ofInt 32 x).toNat : Int) = x := by
  rw [BitVec.toNat_ofInt]
  omega

/-- A tick of a valid channel keeps what the invariant asks of it. -/
theorem Channel.afterTick_ok {c : Channel} (he : c.en = true) (hv : ChannelValid c) (h : c.ok true = true)
    (d meas drv : Int) (vf : Bool) : (c.afterTick (c.tick d meas drv vf)).ok true = true := by
  obtain ⟨-, hl⟩ := (Channel.ok_iff_bounded he).1 h
  have bound := c.tick_applied_bound hv hl d meas drv vf
  have stored := toNat_ofInt_of_range (c.tick_acc_range d meas drv vf)
  refine (Channel.ok_iff_bounded (c := c.afterTick _) he).2 ⟨?_, ?_⟩
  · change decide ((c.tick d meas drv vf).acc > (c.errMax.toNat : Int)) =
      decide ((BitVec.ofInt 32 (c.tick d meas drv vf).acc).toNat > c.errMax.toNat)
    rw [decide_eq_decide]
    omega
  · change ((BitVec.ofInt 32 (c.tick d meas drv vf).applied).toInt.natAbs : Int) ≤ c.max.toInt
    rwa [toInt_ofInt_of_bound bound]

/-- `LRST` leaves a channel idle. -/
theorem Channel.cleared_idle (c : Channel) : c.cleared.idle = true := rfl

end Sys2Proof.Machine
end

section
/-! The invariant, kept by every step (O59): each clause is kept by every result of a command and by every event of the outside
world. -/

namespace Sys2Proof.Machine

/-! ### The clauses of the invariant -/

theorem State.tablesOk_iff {s : State} : s.tablesOk = true ↔
    tableWf Slot.reset 64 s.vals = true ∧ tableWf MsgDesc.reset 64 s.msgs = true ∧
      tableWf SigDesc.reset 512 s.sigs = true ∧ tableWf Channel.reset 2 s.chans = true := by
  simp [State.tablesOk, and_assoc]

theorem State.latchOk_iff {s : State} :
    s.latchOk = true ↔ ∀ w, s.pending = some w → s.cmd = w ∧ s.done = false := by
  unfold State.latchOk
  cases s.pending <;> simp

theorem State.resetOk_iff {s : State} : s.resetOk = true ↔ (s.resetLine = true → s.assertReset = s) := by
  simp only [State.resetOk]
  cases s.resetLine <;> simp

/-- While a command is latched reset is released. -/
theorem State.Inv.resetLine_of_pending {s : State} (h : s.Inv) {w : Word} (hp : s.pending = some w) :
    s.resetLine = false := by
  by_contra hr
  have held : s.assertReset = s := State.resetOk_iff.1 h.resetHeld (by simpa using hr)
  have empty : s.assertReset.pending = none := rfl
  rw [held, hp] at empty
  cases empty

/-- The checks of `LOCK` read no more of a channel than `EN` and the words 0 to 6. -/
theorem lockFailure_congr_limits {s t : State} (hm : t.msgs = s.msgs) (hs : t.sigs = s.sigs)
    (hc : ∀ c, (t.chan c).en = (s.chan c).en ∧ (t.chan c).limits = (s.chan c).limits) :
    lockFailure t = lockFailure s := by
  have channels : channelFailure t = channelFailure { t with chans := s.chans } := by
    funext c
    change _ = if (s.chan c).en then ((s.chan c).limits.findIdx? _).map _ else none
    rw [channelFailure, (hc c).1, (hc c).2]
  calc lockFailure t = lockFailure { t with chans := s.chans } := by rw [lockFailure, channels]; rfl
    _ = lockFailure s := lockFailure_congr hm hs rfl

theorem State.limiterOk_congr {s t : State} (hc : t.chans = s.chans) (hp : t.phase = s.phase) :
    t.limiterOk = s.limiterOk := by
  simp only [State.limiterOk, State.chan, State.locked, hc, hp]

/-- Setting a channel keeps the catalog if it keeps what `LOCK` checks. -/
theorem State.catalogOk_of_setChan {s t : State} {c : Nat} {x : Channel} (hc : t.chans = (s.setChan c x).chans)
    (hm : t.msgs = s.msgs) (hs : t.sigs = s.sigs) (hp : t.phase = s.phase) (he : x.en = (s.chan c).en)
    (hl : x.limits = (s.chan c).limits) (h : s.catalogOk = true) : t.catalogOk = true := by
  rw [State.catalogOk_iff, hp] at *
  intro hop
  rw [← h hop]
  refine lockFailure_congr_limits hm hs fun k => ?_
  have read : t.chan k = if k = c ∧ c < 2 then x else s.chan k := by
    rw [State.chan, hc]
    exact s.chan_setChan c k x
  rw [read]
  split
  · rename_i hk
    exact hk.1 ▸ ⟨he, hl⟩
  · exact ⟨rfl, rfl⟩

/-- Setting a channel keeps the limiter clause if the channel is as the phase demands. -/
theorem State.limiterOk_setChan {s : State} {c : Nat} {x : Channel} (h : s.limiterOk = true)
    (hx : c < 2 → x.ok s.locked = true) : (s.setChan c x).limiterOk = true := by
  rw [State.limiterOk_iff] at h ⊢
  intro k hk
  rw [State.chan_setChan]
  split
  · rename_i hkc
    exact hx hkc.2
  · exact h k hk

/-! ### The block's turn -/

/-- A command empties the latch and leaves the reset input. -/
theorem CommandResult.idle {s t : State} {i : Instr} (h : CommandResult s i t) :
    t.pending = none ∧ t.resetLine = s.resetLine := by
  cases h <;> exact ⟨rfl, rfl⟩

theorem CommandResult.memoryOk {s t : State} {i : Instr} (h : CommandResult s i t) (hm : s.memoryOk = true) :
    t.memoryOk = true := by
  cases h with
  | encoded clr => exact packFrame_wf _ _ _ _ (startFrame_wf _ clr _ hm)
  | checksumInserted => exact Memory.write_wf _ _ _ hm
  | counterWritten => exact counterPut_wf _ _ _ hm
  | _ => exact hm

theorem CommandResult.tablesOk {s t : State} {i : Instr} (h : CommandResult s i t) (ht : s.tablesOk = true) :
    t.tablesOk = true := by
  obtain ⟨hv, hm, hs, hc⟩ := State.tablesOk_iff.1 ht
  cases h with
  | encoded => exact State.tablesOk_iff.2 ⟨foldl_slotsSet_wf _ _ _ hv, hm, hs, hc⟩
  | decoded => exact State.tablesOk_iff.2 ⟨foldl_slotsSet_wf _ _ _ hv, hm, hs, hc⟩
  | valuesCleared => exact State.tablesOk_iff.2 ⟨rfl, hm, hs, hc⟩
  | ticked => exact State.tablesOk_iff.2 ⟨hv, hm, hs, tableSet_wf _ _ _ _ _ hc⟩
  | limiterCleared => exact State.tablesOk_iff.2 ⟨hv, hm, hs, tableSet_wf _ _ _ _ _ hc⟩
  | _ => exact ht

theorem CommandResult.catalogOk {s t : State} {i : Instr} (h : CommandResult s i t) (hc : s.catalogOk = true) :
    t.catalogOk = true := by
  cases h with
  | locked _ hl => exact State.catalogOk_iff.2 fun _ => hl
  | ticked => exact State.catalogOk_of_setChan rfl rfl rfl rfl rfl rfl hc
  | limiterCleared => exact State.catalogOk_of_setChan rfl rfl rfl rfl rfl rfl hc
  | _ => exact hc

theorem CommandResult.limiterOk {s t : State} {i : Instr} (h : CommandResult s i t) (hs : s.Inv) :
    t.limiterOk = true := by
  have channels := State.limiterOk_iff.1 hs.limiter
  cases h with
  | locked hp hl =>
    have unlocked : s.locked = false := by simp [State.locked, hp]
    refine State.limiterOk_iff.2 fun c hc => ?_
    have idle : (s.chan c).idle = true := (Channel.ok_iff_idle (by simp [unlocked])).1 (channels c hc)
    exact Channel.ok_of_idle idle (fun he => ((catalogValid_of_lockFailure hl).channels c hc he).max) _
  | @ticked idx hp hi he =>
    have locked := State.locked_iff.2 hp
    have ok := channels idx hi
    rw [locked] at ok
    refine State.limiterOk_setChan hs.limiter fun _ => ?_
    rw [locked]
    exact Channel.afterTick_ok he ((hs.catalogValid hp).channels idx hi he) ok _ _ _ _
  | @limiterCleared idx hp hi he =>
    have max : 0 ≤ (s.chan idx).max.toInt := ((hs.catalogValid hp).channels idx hi he).max
    exact State.limiterOk_setChan hs.limiter fun _ => Channel.ok_of_idle (Channel.cleared_idle _) (fun _ => max) _
  | _ => exact hs.limiter

/-- A command that completes in a state of the invariant leaves one. -/
theorem CommandResult.inv {s t : State} {i : Instr} (h : CommandResult s i t) (hs : s.Inv) (hr : s.resetLine = false) :
    t.Inv where
  memory := h.memoryOk hs.memory
  tables := h.tablesOk hs.tables
  latch := State.latchOk_iff.2 (by simp [h.idle.1])
  catalog := h.catalogOk hs.catalog
  limiter := h.limiterOk hs
  resetHeld := State.resetOk_iff.2 (by simp [h.idle.2, hr])

/-! ### Host writes -/

/-- A write of a channel's read-only word changes nothing (10_state R46). -/
theorem Channel.setWord_readOnly (c : Channel) {w : Nat} (h : 8 < w) (v : Word) : c.setWord w v = c := by
  rw [Channel.setWord_eq, if_neg (by omega)]

/-- A write of a word that is not frozen in OPERATE leaves the catalog and the channels (20_memory R70). -/
theorem State.writeTarget_keeps_catalog {s : State} {x : Target} (ht : s.tablesOk = true) (hx : x.frozen = false)
    (v : Word) :
    (s.writeTarget x v).msgs = s.msgs ∧ (s.writeTarget x v).sigs = s.sigs ∧ (s.writeTarget x v).chans = s.chans := by
  cases x with
  | msg => simp [Target.frozen] at hx
  | sig => simp [Target.frozen] at hx
  | chan c w =>
    have hw : 8 < w := by simpa [Target.frozen] using hx
    refine ⟨rfl, rfl, ?_⟩
    rw [State.writeTarget, Channel.setWord_readOnly _ hw]
    exact tableSet_self _ _ _ _ (State.tablesOk_iff.1 ht).2.2.2
  | _ => exact ⟨rfl, rfl, rfl⟩

theorem State.writeTarget_phase (s : State) (x : Target) (v : Word) : (s.writeTarget x v).phase = s.phase := by
  cases x <;> rfl

theorem State.writeTarget_resetLine (s : State) (x : Target) (v : Word) :
    (s.writeTarget x v).resetLine = s.resetLine := by
  cases x <;> rfl

theorem State.writeTarget_memoryOk {s : State} (h : s.memoryOk = true) (x : Target) (v : Word) :
    (s.writeTarget x v).memoryOk = true := by
  cases x with
  | fbuf w => exact fbufSetWord_wf _ _ _ h
  | _ => exact h

theorem State.writeTarget_tablesOk {s : State} (h : s.tablesOk = true) (x : Target) (v : Word) :
    (s.writeTarget x v).tablesOk = true := by
  obtain ⟨hv, hm, hs, hc⟩ := State.tablesOk_iff.1 h
  cases x with
  | val => exact State.tablesOk_iff.2 ⟨tableSet_wf _ _ _ _ _ hv, hm, hs, hc⟩
  | msg => exact State.tablesOk_iff.2 ⟨hv, tableSet_wf _ _ _ _ _ hm, hs, hc⟩
  | sig => exact State.tablesOk_iff.2 ⟨hv, hm, tableSet_wf _ _ _ _ _ hs, hc⟩
  | chan => exact State.tablesOk_iff.2 ⟨hv, hm, hs, tableSet_wf _ _ _ _ _ hc⟩
  | _ => exact h

theorem State.writeTarget_latchOk {s : State} (h : s.latchOk = true) (x : Target) (v : Word) :
    (s.writeTarget x v).latchOk = true := by
  cases x with
  | cmd => simp [State.writeTarget, State.latchOk_iff]
  | status =>
    refine State.latchOk_iff.2 fun w hw => ?_
    obtain ⟨hcmd, hdone⟩ := State.latchOk_iff.1 h w hw
    exact ⟨hcmd, by simp [State.writeTarget, State.writeStatus, hdone]⟩
  | _ => exact h

/-- In OPERATE a frozen word is not written. -/
theorem State.unlocked_of_frozen {s : State} {x : Target} (hd : s.dropsWrite x = false) (hx : x.frozen = true) :
    s.locked = false := by
  simp only [State.dropsWrite, hx, Bool.and_true, Bool.or_eq_false_iff] at hd
  exact hd.2

theorem State.writeTarget_catalogOk {s : State} {x : Target} (h : s.catalogOk = true) (ht : s.tablesOk = true)
    (hd : s.dropsWrite x = false) (v : Word) : (s.writeTarget x v).catalogOk = true := by
  rw [State.catalogOk_iff, State.writeTarget_phase] at *
  intro hp
  have hx : x.frozen = false := Bool.eq_false_iff.2 fun hf => by
    exact absurd (State.unlocked_of_frozen hd hf) (by simp [State.locked_iff.2 hp])
  obtain ⟨hm, hs, hc⟩ := State.writeTarget_keeps_catalog ht hx v
  rw [lockFailure_congr hm hs hc, h hp]

/-- A host write of a channel's word leaves an idle channel idle (10_state R46). -/
theorem Channel.idle_setWord {c : Channel} (h : c.idle = true) (w : Nat) (v : Word) : (c.setWord w v).idle = true := by
  obtain ⟨hlast, hacc, htemp, hperm, hovr⟩ := c.setWord_keeps w v
  rw [Channel.idle_iff] at h ⊢
  rwa [hlast, hacc, htemp, hperm, hovr]

theorem State.writeTarget_limiterOk {s : State} {x : Target} (h : s.limiterOk = true) (ht : s.tablesOk = true)
    (hd : s.dropsWrite x = false) (v : Word) : (s.writeTarget x v).limiterOk = true := by
  cases hx : x.frozen
  · obtain ⟨-, -, hc⟩ := State.writeTarget_keeps_catalog ht hx v
    rwa [State.limiterOk_congr hc (s.writeTarget_phase x v)]
  · have unlocked := State.unlocked_of_frozen hd hx
    cases x with
    | chan c w =>
      refine State.limiterOk_setChan h fun hc => (Channel.ok_iff_idle (by simp [unlocked])).2 ?_
      exact Channel.idle_setWord ((Channel.ok_iff_idle (by simp [unlocked])).1 (State.limiterOk_iff.1 h c hc)) w v
    | _ => exact h

/-- A host write that is not dropped, while reset is released. -/
theorem State.Inv.writeTarget {s : State} {x : Target} (h : s.Inv) (hr : s.resetLine = false)
    (hd : s.dropsWrite x = false) (v : Word) : (s.writeTarget x v).Inv where
  memory := State.writeTarget_memoryOk h.memory x v
  tables := State.writeTarget_tablesOk h.tables x v
  latch := State.writeTarget_latchOk h.latch x v
  catalog := State.writeTarget_catalogOk h.catalog h.tables hd v
  limiter := State.writeTarget_limiterOk h.limiter h.tables hd v
  resetHeld := State.resetOk_iff.2 (by simp [State.writeTarget_resetLine, hr])

/-! ### The outside world's turn -/

/-- The invariant at reset: every clause is a closed fact. -/
theorem State.reset_inv : State.reset.Inv :=
  ⟨rfl, rfl, rfl, rfl, by decide, rfl⟩

/-- Asserting reset brings the invariant about (70_reset R280). -/
theorem State.assertReset_inv (s : State) : s.assertReset.Inv where
  memory := State.reset_inv.memory
  tables := State.reset_inv.tables
  latch := State.reset_inv.latch
  catalog := State.reset_inv.catalog
  limiter := State.reset_inv.limiter
  resetHeld := State.resetOk_iff.2 fun _ => rfl

/-- The outside world's own fields may change, and the countdown may go down, also while reset is asserted. -/
theorem State.Inv.outside {s : State} (h : s.Inv) (events : List HostEvent) (r : BusReply) (draws : Nat) :
    ({ s with host := events, wait := s.wait - 1, reply := r, draws := draws } : State).Inv where
  memory := h.memory
  tables := h.tables
  latch := h.latch
  catalog := h.catalog
  limiter := h.limiter
  resetHeld := State.resetOk_iff.2 fun hr => by
    rw [← State.resetOk_iff.1 h.resetHeld hr]
    rfl

/-- While reset is released the reply and `WDROP` are free. -/
theorem State.Inv.released {s : State} (h : s.Inv) (hr : s.resetLine = false) (r : BusReply) (dropped : Bool) :
    ({ s with reply := r, wdrop := dropped } : State).Inv :=
  ⟨h.memory, h.tables, h.latch, h.catalog, h.limiter, State.resetOk_iff.2 (by simp [hr])⟩

theorem State.Inv.hostWrite {s : State} (h : s.Inv) (hr : s.resetLine = false) (off : Nat) (v : Word) :
    (s.hostWrite off v).Inv := by
  cases hd : s.dropsWrite (target off)
  · rw [State.hostWrite_carried_out hd]
    exact (h.writeTarget hr hd v).released (by rw [State.writeTarget_resetLine, hr]) .written _
  · rw [State.hostWrite_dropped hd]
    exact h.released hr .written true

theorem hostTurn_inv {s t : State} (h : s.Inv) (ht : hostTurn s = .next t) : t.Inv := by
  have advanced : s.advanced.Inv := h.outside s.host.tail s.reply s.draws
  rcases hostTurn_cases ht with rfl | ⟨r, -, rfl⟩ | rfl | rfl | ⟨off, -, -, rfl⟩ | ⟨off, v, hr, -, rfl⟩
  · exact advanced
  · exact s.advanced.assertReset_inv
  · exact ⟨advanced.memory, advanced.tables, advanced.latch, advanced.catalog, advanced.limiter, rfl⟩
  · exact h.outside s.host.tail .notAccepted s.draws
  · rcases s.advanced.hostRead_cases off.toNat with hread | hread <;> rw [hread]
    · exact h.outside s.host.tail _ s.draws
    · exact h.outside s.host.tail _ (s.draws + 1)
  · exact advanced.hostWrite hr off.toNat v

/-- Settles O59: a command's result keeps each clause, and so does each event of the outside world. -/
theorem everyStepKeepsTheInvariant : Obligations.EveryStepKeepsTheInvariant := by
  intro s t hs hstep
  rcases step_cases hstep with ⟨w, i, hp, -, -, he⟩ | ⟨w, e, hp, -, -, he⟩ | ⟨-, ht⟩
  · exact (exec_result he).inv hs (hs.resetLine_of_pending hp)
  · obtain rfl := next_inj he
    exact (CommandResult.raised .nop _ _).inv hs (hs.resetLine_of_pending hp)
  · exact hostTurn_inv hs ht

/-- Settles O58: every clause holds of the empty tables and the empty latch. -/
theorem invariantHoldsAtReset : Obligations.InvariantHoldsAtReset := State.reset_inv

end Sys2Proof.Machine
end

section
/-! Whose turn a step is (O6), and what a command leaves as it was: the registers the host owns (O7) and the frame beyond the
message (O36). -/

namespace Sys2Proof.Machine

/-! ### The step -/

theorem step_command {s : State} {w : Word} {i : Instr} (hp : s.pending = some w) (hw : s.wait = 0)
    (hd : decode w = .ok i) : step s = exec i s := by
  simp [step, hp, hw, runCommand, hd]

theorem step_waiting {s : State} {w : Word} (hp : s.pending = some w) (hw : s.wait ≠ 0) : step s = hostTurn s := by
  simp [step, hp, hw]

theorem step_idle {s : State} (hp : s.pending = none) : step s = hostTurn s := by
  simp [step, hp]

/-- Settles O6: the latch and the countdown decide whose turn it is, and `withFetchWord` latches with countdown 0. -/
theorem stepRunsTheDecodedCommand : Obligations.StepRunsTheDecodedCommand := by
  refine ⟨fun s w i hp hd => ⟨fun hw => step_command hp hw hd, step_waiting hp⟩, fun s => step_idle, fun s w i hd => ?_⟩
  have latched : (s.withFetchWord 32 w.toNat).pending = some w := by
    rw [State.withFetchWord_pending, Nat.mod_eq_of_lt w.isLt, BitVec.ofNat_toNat, BitVec.setWidth_eq]
  exact step_command latched rfl hd

/-! ### What a command keeps -/

/-- Settles O7: both ways for a command to end write `DONE` and empty the latch, and neither writes what the host owns. -/
theorem everyCommandCompletes : Obligations.EveryCommandCompletes := by
  intro i s
  rcases exec_cases i s with ⟨c, e, -, h⟩ | ⟨u, h, hu⟩
  · exact ⟨_, h, by simp [State.busy]⟩
  · refine ⟨_, h, rfl, rfl, ?_⟩
    rw [hu]
    simp

/-- Writing a field of a message leaves the bytes beyond the message. -/
theorem fieldSet_read_beyond {s len bytes a : Nat} {be : Bool} (m : Memory) (u : Nat)
    (hw : fieldWithin s len be bytes = true) (ha : bytes ≤ a) : (fieldSet m s len be u).read a = m.read a := by
  refine Memory.read_ext _ _ _ fun i hi => frameBitGet_fieldSet_other _ _ _ _ _ _ fun hb => ?_
  obtain ⟨k, hk, hpos⟩ := mem_fieldBits.1 hb
  have := bitpos_lt hw hk
  omega

/-- Packing the signals of a valid message leaves the bytes beyond the message. -/
theorem packFrame_read_beyond {s : State} {i a : Nat} {m : MsgDesc} (hv : MessageValid s i m) (ha : m.len.toNat ≤ a)
    (f : Memory) : (packFrame m s (List.range m.sigCount.toNat) f).read a = f.read a := by
  refine Memory.read_ext _ _ _ fun b hb => frameBitGet_packFrame_other _ _ _ _ _ fun j hj hmem => ?_
  obtain ⟨k, hk, hpos⟩ := mem_fieldBits.1 hmem
  have := bitpos_lt (hv.withinFrame j hj) hk
  omega

/-- Clearing a message leaves the bytes beyond it. -/
theorem startFrame_read_beyond {m : MsgDesc} {a : Nat} (ha : m.len.toNat ≤ a) (clr : Bool) (f : Memory) :
    (startFrame m clr f).read a = f.read a := by
  unfold startFrame
  split
  · rw [Memory.read_clear, if_neg (by omega)]
  · rfl

/-- Only a strategy with a checksum byte in the frame computes one (41_checksum_counter R162). -/
theorem MsgDesc.csAlg_of_computed {m : MsgDesc} {f : Memory} {c : Byte} (h : m.computed f = some c) :
    m.csAlg = .crc8 ∨ m.csAlg = .passthrough := by
  unfold MsgDesc.computed at h
  split at h
  · cases h
  · exact .inl ‹_›
  · exact .inr ‹_›
  · cases h

/-- R32: a command changes no byte at or beyond the length of its message. -/
theorem CommandResult.read_beyond {s t : State} {i : Instr} (h : CommandResult s i t) (hs : s.Inv) {a : Nat}
    (ha : (s.msg (operandIndex i)).len.toNat ≤ a) : t.fbuf.read a = s.fbuf.read a := by
  cases h with
  | encoded clr hp hi he =>
    exact (packFrame_read_beyond ((hs.catalogValid hp).messages _ hi he) ha _).trans (startFrame_read_beyond ha clr _)
  | @checksumInserted idx c hp hi he hc =>
    have inside := ((hs.catalogValid hp).messages _ hi he).csPos (MsgDesc.csAlg_of_computed hc)
    have outside : a ≠ (s.msg idx).csPos.toNat := (Nat.lt_of_lt_of_le inside ha).ne'
    exact (Memory.read_write ..).trans (if_neg fun e => outside e.1)
  | counterWritten hp hi he hc =>
    exact fieldSet_read_beyond _ _ (((hs.catalogValid hp).messages _ hi he).counterWithin hc) ha
  | _ => rfl

/-- R32: the commands that change the frame. -/
theorem CommandResult.writes_frame {s t : State} {i : Instr} (h : CommandResult s i t) (hne : t.fbuf ≠ s.fbuf) :
    (∃ idx clr, i = .encode idx clr) ∨ (∃ idx, i = .csins idx) ∨ ∃ idx, i = .cntwr idx := by
  cases h with
  | @encoded idx clr => exact .inl ⟨idx, clr, rfl⟩
  | @checksumInserted idx => exact .inr (.inl ⟨idx, rfl⟩)
  | @counterWritten idx => exact .inr (.inr ⟨idx, rfl⟩)
  | _ => exact absurd rfl hne

/-- Settles O36: the fields, the checksum byte and the counter that a command writes lie within a message of the catalog that
`LOCK` accepted. -/
theorem commandsKeepTheFrameBeyondTheMessage : Obligations.CommandsKeepTheFrameBeyondTheMessage :=
  fun _ _ _ hs h => ⟨fun _ ha => (exec_result h).read_beyond hs ha, (exec_result h).writes_frame⟩

end Sys2Proof.Machine
end

section
/-! The registers as the host sees them: `STATUS` (O51), `CMD` (O52), the words of the register files (O60), and what the
window reads after reset (O56). -/

namespace Sys2Proof.Machine

/-! ### STATUS and CMD -/

/-- The step that serves a write that is not dropped. -/
theorem step_facing_write_carried_out {s : State} {off : BitVec 16} {v : Word} (h : s.facing (.write 4 off v))
    (h4 : off.toNat % 4 = 0) (hd : s.dropsWrite (target off.toNat) = false) :
    step s = .next { s.advanced.writeTarget (target off.toNat) v with reply := .written } := by
  rw [step_facing_write h h4, State.hostWrite_carried_out (s := s.advanced) hd]

/-- `STATUS` is at no time frozen, nor dropped while a command runs (20_memory R70). -/
theorem State.dropsWrite_status (s : State) : s.dropsWrite .status = false := by
  simp [State.dropsWrite, Target.frozen]

/-- While no command runs only the frozen words are dropped, in OPERATE. -/
theorem State.dropsWrite_idle {s : State} {x : Target} (hp : s.pending = none)
    (hx : s.phase = .config ∨ x.frozen = false) : s.dropsWrite x = false := by
  rcases hx with hx | hx <;> simp [State.dropsWrite, State.busy, State.locked, hp, hx]

/-- The one-bit fields of `STATUS` (10_state R25). -/
theorem State.statusWord_flags (s : State) :
    s.statusWord.getLsbD 0 = s.busy ∧ s.statusWord.getLsbD 1 = s.done ∧ s.statusWord.getLsbD 2 = s.oor ∧
      s.statusWord.getLsbD 3 = s.csumValid ∧ s.statusWord.getLsbD 4 = s.locked ∧ s.statusWord.getLsbD 5 = s.wdrop ∧
      s.statusWord.getLsbD 6 = false ∧ s.statusWord.getLsbD 7 = false := by
  simp [State.statusWord, flagBit]

/-- The upper half of `STATUS` is reserved. -/
theorem State.statusWord_high (s : State) : s.statusWord >>> 16 = 0 := by
  apply BitVec.eq_of_getLsbD_eq
  intro i hi
  interval_cases i <;> simp [State.statusWord, flagBit]

/-- `STATUS.ERR` is the number of the error code (60_exceptions R251). -/
theorem State.statusWord_err (s : State) : s.statusWord.extractLsb' 8 8 = s.err.toByte := by
  apply BitVec.eq_of_getLsbD_eq
  intro i hi
  interval_cases i <;> simp [State.statusWord, flagBit]

/-- Settles O51: the layout field by field, and the write of a word that is never dropped. -/
theorem statusRegisterLayoutAndClearing : Obligations.StatusRegisterLayoutAndClearing := by
  refine ⟨fun s => ?_, fun s v h => ?_⟩
  · obtain ⟨h0, h1, h2, h3, h4, h5, h6, h7⟩ := s.statusWord_flags
    refine ⟨h0, h1, h2, h3, h4, h5, h6, h7, s.statusWord_high, ?_⟩
    rw [s.statusWord_err]
    cases s.err <;> rfl
  · exact step_facing_write_carried_out h rfl s.dropsWrite_status

/-- Settles O52: while no command runs the write of `CMD` is not dropped. -/
theorem commandWriteIsAccepted : Obligations.CommandWriteIsAccepted := fun _ _ h hp =>
  ⟨_, step_facing_write_carried_out h rfl (State.dropsWrite_idle hp (.inr rfl)), rfl, rfl⟩

/-! ### The words of the register files -/

theorem State.msg_eq_ofWords (s : State) {i : Nat} (hi : i < 64) : s.msg i = .ofWords (s.wordsAt (0x2000 + 32 * i)) :=
  ((MsgDesc.ofWords_congr (s.wordsAt_msg hi)).trans (MsgDesc.ofWords_word _)).symm

theorem State.sig_eq_ofWords (s : State) {k : Nat} (hk : k < 512) : s.sig k = .ofWords (s.wordsAt (0x4000 + 32 * k)) :=
  ((SigDesc.ofWords_congr (s.wordsAt_sig hk)).trans (SigDesc.ofWords_word _)).symm

theorem State.chan_eq_ofWords (s : State) {c : Nat} (hc : c < 2) : s.chan c = .ofWords (s.wordsAt (0x8000 + 64 * c)) :=
  ((Channel.ofWords_congr (s.wordsAt_chan hc)).trans (Channel.ofWords_word _)).symm

theorem State.slot_eq_ofWords (s : State) {j : Nat} (hj : j < 64) : s.slot j = .ofWords (s.wordsAt (0x1000 + 64 * j)) :=
  ((Slot.ofWords_congr (s.wordsAt_slot hj)).trans (Slot.ofWords_word _)).symm

/-- Words that agree still agree after one of them is replaced. -/
theorem update_congr_below {x y : Nat → Word} {n : Nat} (h : ∀ k < n, x k = y k) (w : Nat) (v : Word) :
    ∀ k < n, Function.update x w v k = Function.update y w v k := by
  intro k hk
  rw [Function.update_apply, Function.update_apply, h k hk]

/-- The step that serves a write of the word at `n`, which names `x`, when the write is not dropped. -/
theorem step_writes_word {s : State} {n : Nat} {v : Word} {x : Target} (h : s.facing (.write 4 (BitVec.ofNat 16 n) v))
    (hn : n < 0x10000) (h4 : n % 4 = 0) (hx : target n = x) (hd : s.dropsWrite x = false) :
    step s = .next { s.advanced.writeTarget x v with reply := .written } := by
  have hoff : (BitVec.ofNat 16 n).toNat = n := by simp; omega
  have hstep := step_facing_write_carried_out h (by rwa [hoff]) (by rwa [hoff, hx])
  rwa [hoff, hx] at hstep

theorem step_writes_msg_word {s : State} {i w : Nat} {v : Word} (hi : i < 64) (hw : w < 8) (hp : s.pending = none)
    (hc : s.phase = .config) (h : s.facing (.write 4 (BitVec.ofNat 16 (0x2000 + 32 * i + 4 * w)) v)) :
    ∃ t, step s = .next t ∧ t.msg i = .ofWords (Function.update (s.wordsAt (0x2000 + 32 * i)) w v) ∧
      (∀ i', i' ≠ i → t.msg i' = s.msg i') ∧ t = { s.advanced with msgs := t.msgs, reply := .written } := by
  refine ⟨_, step_writes_word h (by omega) (by omega) (target_msg_word hi hw) (State.dropsWrite_idle hp (.inl hc)),
    ?_, fun i' hne => ?_, rfl⟩
  · refine (State.msg_setMsg ..).trans ?_
    rw [if_pos ⟨rfl, hi⟩, MsgDesc.setWord_eq]
    exact (MsgDesc.ofWords_congr (update_congr_below (s.wordsAt_msg hi) w v)).symm
  · exact (State.msg_setMsg ..).trans (if_neg fun e => hne e.1)

theorem step_writes_sig_word {s : State} {k w : Nat} {v : Word} (hk : k < 512) (hw : w < 8) (hp : s.pending = none)
    (hc : s.phase = .config) (h : s.facing (.write 4 (BitVec.ofNat 16 (0x4000 + 32 * k + 4 * w)) v)) :
    ∃ t, step s = .next t ∧ t.sig k = .ofWords (Function.update (s.wordsAt (0x4000 + 32 * k)) w v) ∧
      (∀ k', k' ≠ k → t.sig k' = s.sig k') ∧ t = { s.advanced with sigs := t.sigs, reply := .written } := by
  refine ⟨_, step_writes_word h (by omega) (by omega) (target_sig_word hk hw) (State.dropsWrite_idle hp (.inl hc)),
    ?_, fun k' hne => ?_, rfl⟩
  · refine (State.sig_setSig ..).trans ?_
    rw [if_pos ⟨rfl, hk⟩, SigDesc.setWord_eq]
    exact (SigDesc.ofWords_congr (update_congr_below (s.wordsAt_sig hk) w v)).symm
  · exact (State.sig_setSig ..).trans (if_neg fun e => hne e.1)

theorem step_writes_chan_word {s : State} {c w : Nat} {v : Word} (hc : c < 2) (hw : w < 16) (hp : s.pending = none)
    (hcfg : s.phase = .config) (h : s.facing (.write 4 (BitVec.ofNat 16 (0x8000 + 64 * c + 4 * w)) v)) :
    ∃ t, step s = .next t ∧
      t.chan c = (if w ≤ 8 then .ofWords (Function.update (s.wordsAt (0x8000 + 64 * c)) w v) else s.chan c) ∧
      (∀ c', c' ≠ c → t.chan c' = s.chan c') ∧ t = { s.advanced with chans := t.chans, reply := .written } := by
  refine ⟨_, step_writes_word h (by omega) (by omega) (target_chan_word hc hw) (State.dropsWrite_idle hp (.inl hcfg)),
    ?_, fun c' hne => ?_, rfl⟩
  · refine (State.chan_setChan ..).trans ?_
    rw [if_pos ⟨rfl, hc⟩, Channel.setWord_eq, Channel.ofWords_congr (update_congr_below (s.wordsAt_chan hc) w v)]
    rfl
  · exact (State.chan_setChan ..).trans (if_neg fun e => hne e.1)

theorem step_writes_slot_word {s : State} {j w : Nat} {v : Word} (hj : j < 64) (hw : w < 16) (hp : s.pending = none)
    (h : s.facing (.write 4 (BitVec.ofNat 16 (0x1000 + 64 * j + 4 * w)) v)) :
    ∃ t, step s = .next t ∧
      t.slot j = { Slot.ofWords (Function.update (s.wordsAt (0x1000 + 64 * j)) w v) with oor := (s.slot j).oor } ∧
      (∀ j', j' ≠ j → t.slot j' = s.slot j') ∧ t = { s.advanced with vals := t.vals, reply := .written } := by
  refine ⟨_, step_writes_word h (by omega) (by omega) (target_val_word hj hw) (State.dropsWrite_idle hp (.inr rfl)),
    ?_, fun j' hne => ?_, rfl⟩
  · refine (State.slot_setSlot ..).trans ?_
    rw [if_pos ⟨rfl, hj⟩, Slot.setWord_eq, Slot.ofWords_congr (update_congr_below (s.wordsAt_slot hj) w v)]
    rfl
  · exact (State.slot_setSlot ..).trans (if_neg fun e => hne e.1)

/-- Settles O60: an entry is the one its words say, and a write replaces one word. -/
theorem registerFileWordsHoldTheirFields : Obligations.RegisterFileWordsHoldTheirFields :=
  ⟨fun s _ => s.msg_eq_ofWords, fun s _ => s.sig_eq_ofWords, fun s _ => s.chan_eq_ofWords, fun s _ => s.slot_eq_ofWords,
    fun _ _ _ _ => step_writes_msg_word, fun _ _ _ _ => step_writes_sig_word, fun _ _ _ _ => step_writes_chan_word,
    fun _ _ _ _ => step_writes_slot_word⟩

/-! ### The window after reset -/

theorem fbufWord_reset (w : Nat) : fbufWord State.reset.fbuf w = 0 := by
  have blank (a : Nat) : Memory.read State.reset.fbuf a = 0 := rfl
  rw [fbufWord, blank, blank, blank, blank]
  rfl

theorem MsgDesc.word_reset (w : Nat) : MsgDesc.reset.word w = 0 := by
  unfold MsgDesc.word
  split <;> rfl

theorem SigDesc.word_reset (w : Nat) : SigDesc.reset.word w = 0 := by
  unfold SigDesc.word
  split <;> rfl

theorem Channel.word_reset (w : Nat) : Channel.reset.word w = 0 := by
  unfold Channel.word
  split <;> rfl

/-- Of a value slot, `DEN` is 1 after reset (10_state R50). -/
theorem Slot.word_reset (w : Nat) : Slot.reset.word w = if w = 4 then 1 else 0 := by
  match w with
  | 0 | 1 | 2 | 3 | 4 | 5 | 6 | 7 | 8 => rfl
  | w + 9 => exact (if_neg (by omega)).symm

/-- The global registers after reset: the two constants of R22, and 0. -/
theorem reset_globals : ∀ n : Fin 0x100, n.val % 4 = 0 → State.reset.readTarget (globalTarget n) =
    if n.val = 0x000 then 0x00400240#32 else if n.val = 0x004 then 0x00400200#32 else 0#32 := by
  decide +kernel

/-- R50 by offsets: the word at `n` after reset. -/
theorem reset_readTarget {n : Nat} (h4 : n % 4 = 0) : State.reset.readTarget (target n) =
    if n = 0x000 then 0x00400240#32 else if n = 0x004 then 0x00400200#32
    else if 0x1000 ≤ n ∧ n < 0x2000 ∧ n % 64 = 0x10 then 1#32 else 0#32 := by
  rcases offset_regions n with h | h | h | h | h | h | h | h | h
  · rw [target_global h, reset_globals ⟨n, h⟩ h4, if_neg (c := 0x1000 ≤ n ∧ _) (by omega)]
  all_goals rw [if_neg (by omega), if_neg (by omega)]
  · rw [target_fbuf h.1 h.2, if_neg (by omega)]
    exact fbufWord_reset _
  · rw [target_gap_fbuf h.1 h.2, if_neg (by omega)]
    rfl
  · rw [target_val h.1 h.2]
    exact (Slot.word_reset _).trans (if_congr (by omega) rfl rfl)
  · rw [target_msg h.1 h.2, if_neg (by omega)]
    exact MsgDesc.word_reset _
  · rw [target_gap_msg h.1 h.2, if_neg (by omega)]
    rfl
  · rw [target_sig h.1 h.2, if_neg (by omega)]
    exact SigDesc.word_reset _
  · rw [target_chan h.1 h.2, if_neg (by omega)]
    exact Channel.word_reset _
  · rw [target_gap_chan h, if_neg (by omega)]
    rfl

/-- Settles O56: the map of the window, read region by region. -/
theorem resetLeavesTheValuesOfTheTable : Obligations.ResetLeavesTheValuesOfTheTable := by
  refine ⟨fun off h4 => ?_, rfl, rfl⟩
  have at_offset (x : BitVec 16) : off = x ↔ off.toNat = x.toNat := BitVec.toNat_inj.symm
  simp only [reset_readTarget h4, at_offset]
  rfl

end Sys2Proof.Machine
end

section
/-! The frame as bits and as words: fields (O19), the bit order of the two endiannesses (O20) and the words of the window that
show the frame buffer (O21). -/

namespace Sys2Proof.Machine

/-! ### Fields -/

/-- A field reads back what was stored in it (20_memory R64). -/
theorem fieldGet_fieldSet {s len u : Nat} {be : Bool} (f : Memory) (hw : fieldWithin s len be 64 = true)
    (hu : u < 2 ^ len) : fieldGet (fieldSet f s len be u) s len be = u := by
  apply Nat.eq_of_testBit_eq
  intro k
  rw [testBit_fieldGet]
  by_cases hk : k < len
  · simp [hk, frameBitGet_fieldSet_same _ _ _ _ _ _ hw hk]
  · have high : u < 2 ^ k := Nat.lt_of_lt_of_le hu (Nat.pow_le_pow_right (by decide) (by omega))
    simp [hk, Nat.testBit_eq_false_of_lt high]

/-- The bits of a field are different frame bits. -/
theorem fieldBits_nodup (s len : Nat) (be : Bool) : (fieldBits s len be).Nodup :=
  List.nodup_range.map_on fun _ hj _ hk h => bitpos_inj (List.mem_range.1 hj) (List.mem_range.1 hk) h

/-- Settles O19: each bit is stored at its own place, and a value is its bits. -/
theorem fieldSetWritesExactlyTheField : Obligations.FieldSetWritesExactlyTheField := by
  intro f s len be u hw hu
  refine ⟨fieldGet_fieldSet f hw hu, fun k => frameBitGet_fieldSet_same f s len be u k hw,
    frameBitGet_fieldSet_other f s len be u, fieldBits_nodup s len be, by simp [fieldBits], fun k hk => ?_,
    fieldGet_lt f s len be⟩
  simp [testBit_fieldGet, hk]

/-! ### The order of the bits -/

/-- A big-endian field has its most significant bit at its start bit (20_memory R63). -/
theorem bitpos_big_top {s len : Nat} (h : 1 ≤ len) : bitpos s len true (len - 1) = s := by
  have last : inByteFlip s + len - 1 - (len - 1) = inByteFlip s := by omega
  simp only [bitpos, if_true, last, inByteFlip_inByteFlip]

/-- The flipped number rises by one from a bit to the one below it, or from bit 0 of a byte to bit 7 of the next. -/
theorem inByteFlip_succ (n : Nat) :
    inByteFlip (n + 1) = if inByteFlip n % 8 = 0 then inByteFlip n + 15 else inByteFlip n - 1 := by
  unfold inByteFlip
  split <;> omega

/-- The bit below in the value is the next one of the field (20_memory R63). -/
theorem bitpos_big_next {s len k : Nat} (h : k + 1 < len) : bitpos s len true k =
    if bitpos s len true (k + 1) % 8 = 0 then bitpos s len true (k + 1) + 15 else bitpos s len true (k + 1) - 1 := by
  have next : inByteFlip s + len - 1 - k = inByteFlip s + len - 1 - (k + 1) + 1 := by omega
  simp only [bitpos, if_true, next, inByteFlip_succ]

/-- The flip stays within the byte. -/
theorem inByteFlip_lt {b bytes : Nat} : inByteFlip b < 8 * bytes ↔ b < 8 * bytes := by
  unfold inByteFlip
  omega

/-- A field lies within a message iff all of its bits do: its last bit decides, which is the most significant one of a
little-endian field and the least significant one of a big-endian field (20_memory R62, R63). -/
theorem fieldWithin_iff {s len bytes : Nat} {be : Bool} (h : 1 ≤ len) :
    fieldWithin s len be bytes = true ↔ ∀ b ∈ fieldBits s len be, b < 8 * bytes := by
  refine ⟨fun hw b hb => ?_, fun hall => ?_⟩
  · obtain ⟨k, hk, rfl⟩ := mem_fieldBits.1 hb
    exact bitpos_lt hw hk
  · cases be with
    | false =>
      have last : s + (len - 1) < 8 * bytes := hall _ (mem_fieldBits.2 ⟨len - 1, by omega, rfl⟩)
      simp only [fieldWithin, Bool.false_eq_true, if_false, decide_eq_true_eq]
      omega
    | true =>
      have last : inByteFlip s + len - 1 - 0 < 8 * bytes :=
        inByteFlip_lt.1 (hall _ (mem_fieldBits.2 ⟨0, by omega, rfl⟩))
      simp only [fieldWithin, if_true, decide_eq_true_eq]
      omega

/-- Settles O20: the flip turns a big-endian field into a rising run of bits. -/
theorem fieldBitsRunAsTheEndiannessSays : Obligations.FieldBitsRunAsTheEndiannessSays :=
  ⟨fun _ _ => ⟨rfl, fun _ => rfl⟩, fun _ _ => bitpos_big_top, fun _ _ _ => bitpos_big_next,
    fun _ _ _ _ => fieldWithin_iff⟩

/-! ### The words of the frame buffer -/

/-- A word of the buffer holds byte `4*w + t` in its byte `t` (20_memory R65). -/
theorem fbufWord_extract (m : Memory) (w : Nat) {t : Nat} (ht : t < 4) :
    (fbufWord m w).extractLsb' (8 * t) 8 = m.read (4 * w + t) := by
  apply BitVec.eq_of_getLsbD_eq
  intro i hi
  interval_cases t <;> interval_cases i <;> simp [fbufWord]

/-- A host write of a word of the buffer writes its four bytes and no other (20_memory R65). -/
theorem read_fbufSetWord (m : Memory) {w : Nat} (hw : w < 16) (v : Word) (a : Nat) :
    (fbufSetWord m w v).read a = if a / 4 = w then v.extractLsb' (8 * (a % 4)) 8 else m.read a := by
  simp only [fbufSetWord, Memory.read_write]
  by_cases h : a / 4 = w
  · obtain ⟨t, ht, rfl⟩ : ∃ t < 4, a = 4 * w + t := ⟨a % 4, by omega, by omega⟩
    have byte : (4 * w + t) % 4 = t := by omega
    rw [if_pos h, byte]
    interval_cases t <;> simp <;> omega
  · rw [if_neg h, if_neg (by omega), if_neg (by omega), if_neg (by omega), if_neg (by omega)]

theorem target_fbuf_word {w : Nat} (hw : w < 16) : target (0x100 + 4 * w) = .fbuf w := by
  rw [target_fbuf (by omega) (by omega)]
  congr 1
  omega

/-- Settles O21: the word at `0x100 + 4*w` is word `w` of the buffer. -/
theorem frameWordsPackFourBytes : Obligations.FrameWordsPackFourBytes := by
  intro s w t hw ht
  simp only [target_fbuf_word hw, State.readTarget, State.writeTarget]
  refine ⟨fbufWord_extract s.fbuf w ht, fun v => ?_, fun v a ha => ?_⟩
  · have place : (4 * w + t) / 4 = w ∧ (4 * w + t) % 4 = t := by omega
    rw [read_fbufSetWord _ hw, if_pos place.1, place.2]
  · rw [read_fbufSetWord _ hw, if_neg ha]

end Sys2Proof.Machine
end

section
/-! The window and what a host read returns: where the window is (O55), which accesses are served (O53), and reads while no
command runs (O50) and while one does (O49). -/

namespace Sys2Proof.Machine

/-! ### The window and the bus errors -/

/-- Settles O55: `BASE` is a multiple of 64 KiB, and the offset is the distance from it. -/
theorem windowIsTheAlignedBlockAtBase : Obligations.WindowIsTheAlignedBlockAtBase := by
  refine ⟨⟨Config.baseIndex, rfl⟩, fun off => ?_, fun addr h => if_neg (by omega)⟩
  have inside : Config.base ≤ Config.base + off.toNat ∧ Config.base + off.toNat < Config.base + 0x10000 := by omega
  rw [windowOffset, if_pos inside, Nat.add_sub_cancel_left, BitVec.ofNat_toNat, BitVec.setWidth_eq]

theorem accessOk_eq_false {width : Nat} {off : BitVec 16} (h : width ≠ 4 ∨ off.toNat % 4 ≠ 0) :
    accessOk width off = false := by
  rcases h with h | h <;> simp [accessOk, h]

/-- A misshapen access is the fault of the host (60_exceptions R256). -/
theorem step_facing_misshapen {s : State} {e : HostEvent} {width : Nat} {off : BitVec 16} (h : s.facing e)
    (he : e = .read width off ∨ ∃ v, e = .write width off v) (hbad : width ≠ 4 ∨ off.toNat % 4 ≠ 0) :
    step s = .fault (.busError off) := by
  rw [step_facing h]
  obtain ⟨-, released, -⟩ := h
  rcases he with rfl | ⟨v, rfl⟩ <;> simp [serveEvent, released, accessOk_eq_false hbad]

/-- Settles O53: an access is served if and only if it has the one width and alignment. -/
theorem misshapenAccessesAreBusErrors : Obligations.MisshapenAccessesAreBusErrors :=
  ⟨fun _ _ _ _ hbad =>
      ⟨fun h => step_facing_misshapen h (.inl rfl) hbad, fun h => step_facing_misshapen h (.inr ⟨_, rfl⟩) hbad⟩,
    fun _ _ _ h4 => ⟨fun h => ⟨_, step_facing_read h h4⟩, fun h => ⟨_, step_facing_write h h4⟩⟩⟩

/-! ### Reads -/

/-- A read returns the current value while no command runs, and of a word that no command changes at any time. -/
theorem step_facing_read_current {s : State} {off : BitVec 16} (h : s.facing (.read 4 off)) (h4 : off.toNat % 4 = 0)
    (hr : s.busy = false ∨ (target off.toNat).readableWhileBusy = true) :
    step s = .next { s.advanced with reply := .data (s.readTarget (target off.toNat)) } := by
  have current : (s.advanced.busy && !(target off.toNat).readableWhileBusy) = false := by
    rcases hr with hr | hr <;> simp [hr]
  rw [step_facing_read h h4, State.hostRead, current, State.advanced_readTarget]
  rfl

/-- A read of another word while a command runs returns a free value (20_memory R71). -/
theorem step_facing_read_free {s : State} {off : BitVec 16} (h : s.facing (.read 4 off)) (h4 : off.toNat % 4 = 0)
    (hb : s.busy = true) (hr : (target off.toNat).readableWhileBusy = false) :
    step s = .next { s.advanced with reply := .data (Config.busyRead s.draws), draws := s.draws + 1 } := by
  rw [step_facing_read h h4, State.hostRead, State.advanced_busy, hb, hr]
  rfl

/-- `CTRL` as a number: `IE`, `ABSENT_RAW0` and `RNE` in bits 1 to 3 (10_state R24). -/
theorem State.ctrlWord_toNat (s : State) :
    s.ctrlWord.toNat = 2 * s.ie.toNat + 4 * s.absentRaw0.toNat + 8 * s.rne.toNat := by
  unfold State.ctrlWord
  cases s.ie <;> cases s.absentRaw0 <;> cases s.rne <;> rfl

/-- Settles O50: the latch is empty, and each offset names its register. -/
theorem idleReadsReturnTheRegister : Obligations.IdleReadsReturnTheRegister := by
  refine ⟨fun s off h h4 hp => step_facing_read_current h h4 (.inl (by simp [State.busy, hp])), fun s => ?_⟩
  exact ⟨rfl, rfl, s.ctrlWord_toNat, rfl, rfl, rfl, rfl, rfl, BitVec.toNat_setWidth_of_le (by decide), rfl, rfl, rfl, rfl⟩

/-- While a command runs `DONE` is 0 (10_state R26). -/
theorem State.Inv.done_of_busy {s : State} (h : s.Inv) (hb : s.busy = true) : s.done = false := by
  obtain ⟨w, hw⟩ := Option.isSome_iff_exists.1 hb
  exact (State.latchOk_iff.1 h.latch w hw).2

/-- Settles O49: the words readable while a command runs are the listed ones and the reserved ones. -/
theorem busyReadsAreCurrentOrFree : Obligations.BusyReadsAreCurrentOrFree := by
  intro s off hs h h4 hb listed
  have readable : (target off.toNat).readableWhileBusy = true ↔ listed ∨ reservedOffset off.toNat :=
    (target_readable_iff h4).trans (or_assoc (a := off.toNat ≤ 0x010)).symm
  obtain ⟨busy, done, -⟩ := s.statusWord_flags
  refine ⟨fun hl => step_facing_read_current h h4 (.inr (readable.2 (.inl hl))), fun hl hr => ?_, busy.trans hb,
    done.trans (hs.done_of_busy hb)⟩
  exact step_facing_read_free h h4 hb (Bool.eq_false_iff.2 fun e => (readable.1 e).elim hl hr)

end Sys2Proof.Machine
end

section
/-! What a host write does: which writes are dropped (O46), the reserved words (O47), the words that store what was written
(O48), and what no write and no command changes in OPERATE (O45). -/

namespace Sys2Proof.Machine

/-! ### Dropped writes -/

/-- Cases 1 and 2 of 20_memory R70, by the offset. -/
theorem State.dropsWrite_offset_iff {s : State} {off : BitVec 16} (h4 : off.toNat % 4 = 0) :
    s.dropsWrite (target off.toNat) = true ↔ s.droppedWhileBusy off ∨ s.droppedAsFrozen off := by
  have at_offset (x : BitVec 16) : off.toNat = x.toNat ↔ off = x := BitVec.toNat_inj
  have ctrl : target off.toNat = .ctrl ↔ off = 0x008 := (target_ctrl_iff _).trans (at_offset 0x008)
  have status : target off.toNat = .status ↔ off = 0x00C := (target_status_iff _).trans (at_offset 0x00C)
  rw [State.dropsWrite_iff, target_frozen_iff h4, State.locked_iff, Ne, Ne, ctrl, status]
  rfl

/-- A write in neither of these cases is carried out. -/
theorem State.dropsWrite_eq_false {s : State} {off : BitVec 16} (h4 : off.toNat % 4 = 0)
    (hb : ¬ s.droppedWhileBusy off) (hf : ¬ s.droppedAsFrozen off) : s.dropsWrite (target off.toNat) = false :=
  Bool.eq_false_iff.2 fun hd => ((State.dropsWrite_offset_iff h4).1 hd).elim hb hf

/-- `CTRL` is at no time frozen, nor dropped while a command runs (20_memory R70). -/
theorem State.dropsWrite_ctrl (s : State) : s.dropsWrite .ctrl = false := by
  simp [State.dropsWrite, Target.frozen]

/-- A write of `CTRL` that is in none of the cases of R70 keeps the bits that are frozen in OPERATE. -/
theorem State.ctrl_bits_kept {s : State} {off : BitVec 16} {v : Word} (hc : ¬ s.ctrlBitsDropped off v)
    (hx : target off.toNat = .ctrl) (hl : s.locked = true) : v.getLsbD 2 = s.absentRaw0 ∧ v.getLsbD 3 = s.rne := by
  have hoff : off = 0x008 := BitVec.eq_of_toNat_eq ((target_ctrl_iff _).1 hx)
  by_contra hne
  exact hc ⟨State.locked_iff.1 hl, hoff, Decidable.not_and_iff_not_or_not.1 hne⟩

/-- `WDROP` is set by a write of `CTRL` that drops bits, and by no other write that is carried out. -/
theorem State.writeTarget_wdrop {s : State} {x : Target} {v : Word}
    (h : x = .ctrl → s.locked = true → v.getLsbD 2 = s.absentRaw0 ∧ v.getLsbD 3 = s.rne)
    (hw : (s.writeTarget x v).wdrop = true) : s.wdrop = true := by
  cases x with
  | ctrl => rwa [State.writeTarget, State.writeCtrl_kept (h rfl)] at hw
  | status => exact (Bool.and_eq_true_iff.1 hw).1
  | _ => exact hw

/-- Case 3 of 20_memory R70: in OPERATE a write of `CTRL` that differs in bits [3:2] writes `IE` only. -/
theorem State.writeCtrl_dropped {s : State} {v : Word} (hl : s.locked = true)
    (hne : v.getLsbD 2 ≠ s.absentRaw0 ∨ v.getLsbD 3 ≠ s.rne) :
    s.writeCtrl v = { s with ie := v.getLsbD 1, wdrop := true } := by
  have differs : (v.getLsbD 2 != s.absentRaw0 || v.getLsbD 3 != s.rne) = true := by simpa using hne
  simp only [State.writeCtrl, hl, differs, if_true, Bool.and_self, Bool.or_true]

/-- Settles O46: cases 1 and 2 drop the write, case 3 drops bits of it, and no other write sets `WDROP`. -/
theorem droppedWritesSetWdrop : Obligations.DroppedWritesSetWdrop := by
  intro s off v h h4
  refine ⟨fun hd => ?_, fun hc => ?_, fun hb hf hc => ?_⟩
  · rw [step_facing_write h h4, State.hostWrite_dropped (s := s.advanced) ((State.dropsWrite_offset_iff h4).2 hd)]
  · obtain ⟨hp, rfl, hne⟩ := hc
    refine (step_facing_write_carried_out h h4 s.dropsWrite_ctrl).trans ?_
    change Host.Outcome.next { s.advanced.writeCtrl v with reply := .written } = _
    rw [State.writeCtrl_dropped (s := s.advanced) (State.locked_iff.2 hp) hne]
  · exact ⟨_, step_facing_write_carried_out h h4 (State.dropsWrite_eq_false h4 hb hf),
      State.writeTarget_wdrop (s := s.advanced) (State.ctrl_bits_kept hc)⟩

/-! ### Reserved words and bits -/

theorem no_reserved_bits (x : Word) : x &&& ~~~0xFFFFFFFF#32 = 0 := BitVec.and_zero

/-- The reserved bits of a word are those that no field of it has (20_memory R68). -/
theorem Slot.word_reserved (v : Slot) (j w : Nat) : v.word w &&& ~~~(Target.val j w).definedBits = 0 := by
  match w with
  | 0 | 1 | 2 | 3 | 4 | 5 | 6 | 7 => exact no_reserved_bits _
  | 8 =>
    apply BitVec.eq_of_getLsbD_eq
    intro i hi
    interval_cases i <;> simp [Slot.word, Slot.vflagsWord, flagBit, Target.definedBits]
  | _ + 9 => exact BitVec.zero_and

theorem MsgDesc.word_reserved (m : MsgDesc) (i w : Nat) : m.word w &&& ~~~(Target.msg i w).definedBits = 0 := by
  match w with
  | 1 | 3 => exact no_reserved_bits _
  | 0 | 2 | 4 | 5 =>
    apply BitVec.eq_of_getLsbD_eq
    intro i hi
    interval_cases i <;> simp [MsgDesc.word, flagBit, fieldAt, Target.definedBits, Target.storedBits]
  | _ + 6 => exact BitVec.zero_and

theorem SigDesc.word_reserved (d : SigDesc) (k w : Nat) : d.word w &&& ~~~(Target.sig k w).definedBits = 0 := by
  match w with
  | 1 | 2 | 3 | 4 => exact no_reserved_bits _
  | 0 =>
    apply BitVec.eq_of_getLsbD_eq
    intro i hi
    interval_cases i <;> simp [SigDesc.word, flagBit, fieldAt, Target.definedBits, Target.storedBits]
  | _ + 5 => exact BitVec.zero_and

theorem Channel.word_reserved (c : Channel) (k w : Nat) : c.word w &&& ~~~(Target.chan k w).definedBits = 0 := by
  match w with
  | 0 | 1 | 2 | 3 | 4 | 5 | 6 | 7 | 9 | 10 => exact no_reserved_bits _
  | 8 | 11 =>
    apply BitVec.eq_of_getLsbD_eq
    intro i hi
    interval_cases i <;> simp [Channel.word, Channel.cfgWord, Channel.flagsWord, flagBit, Target.definedBits]
  | _ + 12 => exact BitVec.zero_and

theorem State.statusWord_reserved (s : State) : s.statusWord &&& ~~~Target.status.definedBits = 0 := by
  apply BitVec.eq_of_getLsbD_eq
  intro i hi
  interval_cases i <;> simp [State.statusWord, flagBit, Target.definedBits]

theorem State.ctrlWord_reserved (s : State) : s.ctrlWord &&& ~~~Target.ctrl.definedBits = 0 := by
  apply BitVec.eq_of_getLsbD_eq
  intro i hi
  interval_cases i <;> simp [State.ctrlWord, flagBit, Target.definedBits]

/-- A reserved bit of a register reads 0 (20_memory R68). -/
theorem State.readTarget_reserved_bits (s : State) (x : Target) : s.readTarget x &&& ~~~x.definedBits = 0 := by
  cases x with
  | params1 => exact (by decide : Config.params1 &&& ~~~0x00FFFFFF#32 = 0)
  | reserved => exact BitVec.zero_and
  | ctrl => exact s.ctrlWord_reserved
  | status => exact s.statusWord_reserved
  | flen =>
    apply BitVec.eq_of_getLsbD_eq
    intro i hi
    interval_cases i <;> simp [State.readTarget, Target.definedBits]
  | val j w => exact Slot.word_reserved _ j w
  | msg i w => exact MsgDesc.word_reserved _ i w
  | sig k w => exact SigDesc.word_reserved _ k w
  | chan c w => exact Channel.word_reserved _ c w
  | _ => exact no_reserved_bits _

/-- Settles O47: a reserved word is readable at any time, and writing one leaves the tables as they are. -/
theorem reservedOffsetsReadZeroAndIgnoreWrites : Obligations.ReservedOffsetsReadZeroAndIgnoreWrites := by
  refine ⟨fun s off v hs h4 hr => ?_, State.readTarget_reserved_bits⟩
  have reserved : (target off.toNat).isReserved = true := (target_isReserved_iff h4).2 hr
  refine ⟨fun h => ?_, fun h hb hf => ?_⟩
  · rw [step_facing_read_current h h4 (.inr ((target_readable_iff h4).2 (.inr (.inr hr)))),
      Target.isReserved_reads_zero reserved]
  · have carried := State.dropsWrite_eq_false h4 (fun e => Bool.eq_false_iff.1 hb e.1) hf
    rw [step_facing_write_carried_out h h4 carried, State.writeTarget_reserved (s := s.advanced) hs.tables reserved]

/-! ### Words that store what was written -/

/-- No write but that of `CMD` touches the latch. -/
theorem State.writeTarget_pending {s : State} {x : Target} (hx : x ≠ .cmd) (v : Word) :
    (s.writeTarget x v).pending = s.pending := by
  cases x with
  | cmd => exact absurd rfl hx
  | _ => rfl

/-- A write of one word keeps the words at every other offset (20_memory R68, R69). -/
theorem State.readTarget_writeTarget_elsewhere (s : State) {n m : Nat} (v : Word) (hn : n % 4 = 0) (hm : m % 4 = 0)
    (hne : m ≠ n) (h1 : target n ≠ .status) (h2 : target n ≠ .cmd)
    (h3 : target n = .ctrl → s.locked = true → v.getLsbD 2 = s.absentRaw0 ∧ v.getLsbD 3 = s.rne) :
    (s.writeTarget (target n) v).readTarget (target m) = s.readTarget (target m) := by
  by_cases hx : target m = target n
  · have reserved : target m = .reserved := (target_inj hm hn hx).resolve_left hne
    rw [reserved]
    rfl
  · exact State.readTarget_writeTarget_other s v hx h1 h2 h3

/-- Settles O48: a word that is written stores its bits, and it is the only one. -/
theorem windowWordsReadBackWhatWasWritten : Obligations.WindowWordsReadBackWhatWasWritten := by
  intro s off v h h4 hstatus hcmd hb hf hc x
  have at_offset {y : BitVec 16} (e : off.toNat = y.toNat) : off = y := BitVec.eq_of_toNat_eq e
  have notStatus : x ≠ .status := fun e => hstatus (at_offset ((target_status_iff _).1 e))
  have notCmd : x ≠ .cmd := fun e => hcmd (at_offset ((target_cmd_iff _).1 e))
  have kept := State.ctrl_bits_kept (s := s.advanced) hc
  have carried : s.dropsWrite x = false := State.dropsWrite_eq_false h4 hb hf
  refine ⟨_, step_facing_write_carried_out h h4 carried, State.writeTarget_phase s.advanced x v,
    State.writeTarget_pending (s := s.advanced) notCmd v, rfl, ?_, fun off' h4' hne => ?_⟩
  · rw [State.readTarget_reply, State.readTarget_writeTarget_same _ v (target_inWindow off.isLt) notStatus notCmd kept,
      State.advanced_readTarget]
    rfl
  · have elsewhere : off'.toNat ≠ off.toNat := fun e => hne (BitVec.eq_of_toNat_eq e)
    rw [State.readTarget_reply, State.readTarget_writeTarget_elsewhere _ v h4 h4' elsewhere notStatus notCmd kept,
      State.advanced_readTarget]

/-! ### The catalog in OPERATE -/

/-- `t` has the catalog, the channel configuration and `CTRL[3:2]` of `s` (20_memory R80). -/
def State.sameConfiguration (s t : State) : Prop :=
  t.msgs = s.msgs ∧ t.sigs = s.sigs ∧ t.absentRaw0 = s.absentRaw0 ∧ t.rne = s.rne ∧
    ∀ c w, w ≤ 8 → (t.chan c).word w = (s.chan c).word w

/-- The LimiterState is in none of the configuration words (10_state R44, R45). -/
theorem Channel.word_of_state_changed (c : Channel) (last errAcc : Word) (temp perm ovr : Bool) {w : Nat} (hw : w ≤ 8) :
    ({ c with last := last, errAcc := errAcc, temp := temp, perm := perm, ovr := ovr } : Channel).word w = c.word w := by
  interval_cases w <;> rfl

/-- Setting a channel keeps the words that its new contents keep. -/
theorem State.word_chan_setChan {s : State} {c w : Nat} {x : Channel} (hx : x.word w = (s.chan c).word w) (k : Nat) :
    ((s.setChan c x).chan k).word w = (s.chan k).word w := by
  rw [State.chan_setChan]
  split
  · rename_i hk
    rw [hx, hk.1]
  · rfl

/-- A command writes no descriptor, and of a channel its LimiterState only. -/
theorem CommandResult.sameConfiguration {s t : State} {i : Instr} (h : CommandResult s i t) : s.sameConfiguration t := by
  cases h with
  | ticked | limiterCleared =>
    exact ⟨rfl, rfl, rfl, rfl, fun k _ hw => State.word_chan_setChan (Channel.word_of_state_changed _ _ _ _ _ _ hw) k⟩
  | _ => exact ⟨rfl, rfl, rfl, rfl, fun _ _ _ => rfl⟩

/-- In OPERATE a write of a word that is not frozen keeps the configuration. -/
theorem State.writeTarget_sameConfiguration {s : State} {x : Target} (hl : s.locked = true) (hx : x.frozen = false)
    (v : Word) : s.sameConfiguration (s.writeTarget x v) := by
  cases x with
  | msg => simp [Target.frozen] at hx
  | sig => simp [Target.frozen] at hx
  | ctrl => exact ⟨rfl, rfl, if_pos hl, if_pos hl, fun _ _ _ => rfl⟩
  | chan c w =>
    have readOnly : 8 < w := by simpa [Target.frozen] using hx
    refine ⟨rfl, rfl, rfl, rfl, fun k w' _ => State.word_chan_setChan ?_ k⟩
    rw [Channel.setWord_readOnly _ readOnly]
  | _ => exact ⟨rfl, rfl, rfl, rfl, fun _ _ _ => rfl⟩

/-- In OPERATE a host write keeps the configuration (20_memory R70). -/
theorem State.hostWrite_sameConfiguration {s : State} (hl : s.locked = true) (off : Nat) (v : Word) :
    s.sameConfiguration (s.hostWrite off v) := by
  cases hd : s.dropsWrite (target off)
  · have notFrozen : (target off).frozen = false := Bool.eq_false_iff.2 fun hf => by
      simp [State.unlocked_of_frozen hd hf] at hl
    rw [State.hostWrite_carried_out hd]
    exact State.writeTarget_sameConfiguration hl notFrozen v
  · rw [State.hostWrite_dropped hd]
    exact ⟨rfl, rfl, rfl, rfl, fun _ _ _ => rfl⟩

/-- A turn of the outside world that stays in OPERATE is no reset, and so keeps the configuration. -/
theorem hostTurn_sameConfiguration {s t : State} (h : hostTurn s = .next t) (hs : s.phase = .operate)
    (ht : t.phase = .operate) : s.sameConfiguration t := by
  rcases hostTurn_cases h with rfl | ⟨r, -, rfl⟩ | rfl | rfl | ⟨off, -, -, rfl⟩ | ⟨off, v, -, -, rfl⟩
  · exact ⟨rfl, rfl, rfl, rfl, fun _ _ _ => rfl⟩
  · cases ht
  · exact ⟨rfl, rfl, rfl, rfl, fun _ _ _ => rfl⟩
  · exact ⟨rfl, rfl, rfl, rfl, fun _ _ _ => rfl⟩
  · rcases s.advanced.hostRead_cases off.toNat with hread | hread <;> rw [hread] <;>
      exact ⟨rfl, rfl, rfl, rfl, fun _ _ _ => rfl⟩
  · exact State.hostWrite_sameConfiguration (s := s.advanced) (State.locked_iff.2 hs) off.toNat v

/-- Settles O45: no command writes the configuration, and in OPERATE no host write does. -/
theorem catalogIsFrozenInOperate : Obligations.CatalogIsFrozenInOperate := by
  intro s t hstep hs ht
  change s.sameConfiguration t
  rcases step_cases hstep with ⟨w, i, -, -, -, he⟩ | ⟨w, e, -, -, -, he⟩ | ⟨-, hturn⟩
  · exact (exec_result he).sameConfiguration
  · obtain rfl := next_inj he
    exact (CommandResult.raised .nop _ _).sameConfiguration
  · exact hostTurn_sameConfiguration hturn hs ht

end Sys2Proof.Machine
end

section
/-! The decoder and the encoder agree with each other and with the opcode map (30_encoding R90 to R97, R100): the fields of a
word say which command it is. -/

namespace Sys2Proof
open Machine

/-! ### The fields of a command -/

/-- The field `OP` of a command's word (30_encoding R91, R95). -/
@[simp] def Instr.opcode : Instr → Byte
  | .nop => 0x00
  | .encode _ _ => 0x01
  | .decode _ => 0x02
  | .cscomp _ => 0x03
  | .csins _ => 0x04
  | .csval _ => 0x05
  | .cntrd _ => 0x06
  | .cntwr _ => 0x07
  | .cntnxt _ => 0x08
  | .lookup => 0x09
  | .vclr => 0x0A
  | .lock => 0x0F
  | .lstep _ => 0x10
  | .lrst _ => 0x11

/-- The field `CLR` of a command's word: only `ENCODE.C` sets it (30_encoding R93). -/
@[simp] def Instr.clearsFrame : Instr → Bool
  | .encode _ clr => clr
  | _ => false

theorem encode_eq_commandWord (i : Instr) : encode i = commandWord i.opcode (operandIndex i) i.clearsFrame := by
  cases i <;> rfl

theorem wellFormed_iff (i : Instr) : wellFormed i = true ↔ operandIndex i ≤ 255 := by
  have operand : wellFormed i = operandOk (operandIndex i) := by cases i <;> rfl
  rw [operand, operandOk, decide_eq_true_eq]

theorem Instr.opcode_eq_of_clearsFrame {i : Instr} (h : i.clearsFrame = true) : i.opcode = 0x01 := by
  cases i with
  | encode => rfl
  | _ => cases h

theorem Instr.opcode_defined (i : Instr) :
    ¬ ((0x0B ≤ i.opcode.toNat ∧ i.opcode.toNat ≤ 0x0E) ∨ 0x12 ≤ i.opcode.toNat) := by
  cases i <;> simp

theorem Instr.operandIndex_eq_zero {i : Instr} (h : i.opcode ∈ [(0x00 : Byte), 0x09, 0x0A, 0x0F]) :
    operandIndex i = 0 := by
  cases i with
  | nop | lookup | vclr | lock => rfl
  | _ => simp at h

/-! ### The decoder reads the fields -/

theorem decodeIndexed_ok {w : Word} {mk : Nat → Instr} {i : Instr} :
    decodeIndexed w mk = .ok i ↔ clrField w = false ∧ mk (idxField w).toNat = i := by
  cases hc : clrField w <;> simp [decodeIndexed, hc]

theorem decodePlain_ok {w : Word} {i j : Instr} :
    decodePlain w i = .ok j ↔ clrField w = false ∧ (idxField w).toNat = 0 ∧ i = j := by
  rw [← bv_eq_zero_toNat]
  unfold decodePlain
  cases clrField w with
  | true => simp
  | false => by_cases hi : idxField w = 0#8 <;> simp [hi]

/-- A word is the command `i` iff its reserved bits are 0 and its fields are those of `i` (R90 to R94). -/
theorem decode_ok_iff {w : Word} {i : Instr} :
    decode w = .ok i ↔ reservedField w = 0 ∧ i.opcode = opField w ∧ operandIndex i = (idxField w).toNat ∧
      i.clearsFrame = clrField w := by
  constructor
  · intro h
    unfold decode at h
    split at h
    · rename_i reserved
      refine ⟨reserved, ?_⟩
      split at h <;> rename_i op
      case h_2 => -- `ENCODE`
        obtain rfl := Except.ok.inj h
        exact ⟨BitVec.eq_of_toNat_eq op.symm, rfl, rfl⟩
      case h_1 | h_10 | h_11 | h_12 => -- `NOP`, `LOOKUP`, `VCLR`, `LOCK`
        obtain ⟨clr, idx, rfl⟩ := decodePlain_ok.1 h
        exact ⟨BitVec.eq_of_toNat_eq op.symm, idx.symm, clr.symm⟩
      case h_15 => cases h -- no opcode
      all_goals
        obtain ⟨clr, rfl⟩ := decodeIndexed_ok.1 h
        exact ⟨BitVec.eq_of_toNat_eq op.symm, rfl, clr.symm⟩
    · cases h
  · rintro ⟨reserved, op, idx, clr⟩
    cases i <;> simp [decode, decodeIndexed_ok, decodePlain_ok, reserved, ← op, ← idx, ← clr, operandIndex, messageIndex,
      channelIndex]

/-- Settles O1: the fields of a command's word are the command's. -/
theorem decodingAnEncodedCommandGivesItBack : Obligations.DecodingAnEncodedCommandGivesItBack := by
  intro i hwf
  have bound := (wellFormed_iff i).1 hwf
  obtain ⟨op, idx, clr, reserved⟩ := commandWord_fields i.opcode (operandIndex i) i.clearsFrame
  rw [encode_eq_commandWord, decode_ok_iff, op, idx, clr, BitVec.toNat_ofNat, Nat.mod_eq_of_lt (by omega)]
  exact ⟨reserved, rfl, rfl, rfl⟩

/-- Settles O2: a command's fields are those of its word, and a word is the word of its fields. -/
theorem encodingADecodedWordGivesItBack : Obligations.EncodingADecodedWordGivesItBack := by
  intro w i h
  obtain ⟨reserved, op, idx, clr⟩ := decode_ok_iff.1 h
  rw [encode_eq_commandWord, wellFormed_iff, op, idx, clr]
  exact ⟨commandWord_of_fields w reserved, Nat.le_of_lt_succ (idxField w).isLt⟩

/-! ### The opcode map -/

/-- A mask that keeps a whole field keeps its value. -/
theorem extractLsb'_of_masked {w mask p : Word} (h : w &&& mask = p) (start : Nat) {len : Nat}
    (keeps : mask.extractLsb' start len = BitVec.allOnes len) : w.extractLsb' start len = p.extractLsb' start len := by
  rw [← h, BitVec.extractLsb'_and, keeps, BitVec.and_allOnes]

/-- The fields of a word that a mask with `OP` and the reserved bits finds to be the opcode `op`. -/
theorem fields_of_masked {w mask : Word} {op : Byte} (h : w &&& mask = op.setWidth 32)
    (keepsOp : mask.extractLsb' 0 8 = BitVec.allOnes 8) (keepsReserved : mask.extractLsb' 17 15 = BitVec.allOnes 15) :
    reservedField w = 0 ∧ op = opField w := by
  have word : commandWord op 0 false = op.setWidth 32 := by simp [commandWord]
  obtain ⟨hop, -, -, reserved⟩ := commandWord_fields op 0 false
  rw [← word] at h
  exact ⟨(extractLsb'_of_masked h 17 keepsReserved).trans reserved, ((extractLsb'_of_masked h 0 keepsOp).trans hop).symm⟩

/-- A word that an index row covers is the row's command on the word's `IDX`. -/
theorem decode_of_indexRow {w : Word} {i : Instr} (h : w &&& 0xFFFF00FF#32 = i.opcode.setWidth 32)
    (idx : operandIndex i = (idxField w).toNat) (clr : i.clearsFrame = false) : decode w = .ok i := by
  obtain ⟨reserved, op⟩ := fields_of_masked h (by decide) (by decide)
  have bit : clrField w = false := by
    have := congrArg (·.getLsbD 16) h
    simpa [clrField] using this
  exact decode_ok_iff.2 ⟨reserved, op, idx, clr.trans bit.symm⟩

/-- A word that the row of `ENCODE` covers is `ENCODE` on the word's `IDX` and `CLR`. -/
theorem decode_of_encodeRow {w : Word} (h : w &&& 0xFFFE00FF#32 = 0x01#32) :
    decode w = .ok (.encode (idxField w).toNat (clrField w)) := by
  obtain ⟨reserved, op⟩ := fields_of_masked (op := 0x01) h (by decide) (by decide)
  exact decode_ok_iff.2 ⟨reserved, op, rfl, rfl⟩

/-- A word that a row without operands covers is the row's `match`. -/
theorem decode_of_plainRow {w p : Word} {i : Instr} (h : w &&& 0xFFFFFFFF#32 = p) (hp : decode p = .ok i) :
    decode w = .ok i := by
  have word : w = p := by rw [← h]; exact BitVec.and_allOnes.symm
  rw [word, hp]

/-- A row of the opcode map covers only words that decode to a command of that row. -/
theorem decode_of_covers {w : Word} {r : OpcodeRow} (hr : r ∈ opcodeMap) (h : r.covers w = true) :
    ∃ i, decode w = .ok i ∧ mnemonicOf i = r.mnemonic := by
  replace h := of_decide_eq_true h
  simp only [opcodeMap, List.cons_append, List.nil_append, List.mem_cons, List.not_mem_nil, or_false] at hr
  rcases hr with rfl | rfl | rfl | rfl | rfl | rfl | rfl | rfl | rfl | rfl | rfl | rfl | rfl | rfl
  · exact ⟨.nop, decode_of_plainRow h (by decide), rfl⟩
  · exact ⟨.encode _ _, decode_of_encodeRow h, rfl⟩
  · exact ⟨.decode _, decode_of_indexRow h rfl rfl, rfl⟩
  · exact ⟨.cscomp _, decode_of_indexRow h rfl rfl, rfl⟩
  · exact ⟨.csins _, decode_of_indexRow h rfl rfl, rfl⟩
  · exact ⟨.csval _, decode_of_indexRow h rfl rfl, rfl⟩
  · exact ⟨.cntrd _, decode_of_indexRow h rfl rfl, rfl⟩
  · exact ⟨.cntwr _, decode_of_indexRow h rfl rfl, rfl⟩
  · exact ⟨.cntnxt _, decode_of_indexRow h rfl rfl, rfl⟩
  · exact ⟨.lookup, decode_of_plainRow h (by decide), rfl⟩
  · exact ⟨.vclr, decode_of_plainRow h (by decide), rfl⟩
  · exact ⟨.lock, decode_of_plainRow h (by decide), rfl⟩
  · exact ⟨.lstep _, decode_of_indexRow h rfl rfl, rfl⟩
  · exact ⟨.lrst _, decode_of_indexRow h rfl rfl, rfl⟩

/-- The word of a command is covered by the row of its mnemonic. -/
theorem encode_covered (i : Instr) : Laws.EncodedInItsRow.Statement i :=
  match i with
  | .nop => Laws.EncodedInItsRow.nop
  | .encode idx clr => Laws.EncodedInItsRow.encode idx clr
  | .decode idx => Laws.EncodedInItsRow.decode idx
  | .cscomp idx => Laws.EncodedInItsRow.cscomp idx
  | .csins idx => Laws.EncodedInItsRow.csins idx
  | .csval idx => Laws.EncodedInItsRow.csval idx
  | .cntrd idx => Laws.EncodedInItsRow.cntrd idx
  | .cntwr idx => Laws.EncodedInItsRow.cntwr idx
  | .cntnxt idx => Laws.EncodedInItsRow.cntnxt idx
  | .lookup => Laws.EncodedInItsRow.lookup
  | .vclr => Laws.EncodedInItsRow.vclr
  | .lock => Laws.EncodedInItsRow.lock
  | .lstep idx => Laws.EncodedInItsRow.lstep idx
  | .lrst idx => Laws.EncodedInItsRow.lrst idx

theorem opcodeMap_mnemonics_nodup : (opcodeMap.map OpcodeRow.mnemonic).Nodup := by decide

/-- Of the rows of the opcode map, the one of the decoded command's mnemonic covers the word, and no other (R95). -/
theorem covers_iff {w : Word} {r : OpcodeRow} (hr : r ∈ opcodeMap) :
    r.covers w = true ↔ ∃ i, decode w = .ok i ∧ mnemonicOf i = r.mnemonic := by
  refine ⟨decode_of_covers hr, ?_⟩
  rintro ⟨i, hd, hm⟩
  obtain ⟨r', hr', hm', hc⟩ := encode_covered i
  obtain rfl := List.inj_on_of_nodup_map opcodeMap_mnemonics_nodup hr' hr (hm'.trans hm)
  rwa [(encodingADecodedWordGivesItBack w i hd).1] at hc

/-- Exactly one row of the opcode map bears a command's mnemonic. -/
theorem opcodeMap_filter_mnemonic (i : Instr) :
    (opcodeMap.filter fun r => r.mnemonic == mnemonicOf i).map OpcodeRow.mnemonic = [mnemonicOf i] := by
  obtain ⟨r, hr, hm, -⟩ := encode_covered i
  have bears : mnemonicOf i ∈ opcodeMap.map OpcodeRow.mnemonic := hm ▸ List.mem_map_of_mem hr
  calc
    _ = (opcodeMap.map OpcodeRow.mnemonic).filter (· == mnemonicOf i) := List.filter_map.symm
    _ = [mnemonicOf i] := by
      rw [List.filter_beq, List.count_eq_one_of_mem opcodeMap_mnemonics_nodup bears, List.replicate_one]

/-- Settles O3: the rows that cover a word are those of its command's mnemonic. -/
theorem decoderFollowsTheOpcodeMap : Obligations.DecoderFollowsTheOpcodeMap := by
  intro w
  cases hd : decode w with
  | ok i =>
    have rows : ∀ r ∈ opcodeMap, r.covers w = (r.mnemonic == mnemonicOf i) := fun r hr => by
      rw [Bool.eq_iff_iff, covers_iff hr, hd, beq_iff_eq]
      simp [eq_comm]
    rw [List.filter_congr rows]
    exact opcodeMap_filter_mnemonic i
  | error e =>
    have rows : ∀ r ∈ opcodeMap, ¬ r.covers w = true := fun r hr h => by
      obtain ⟨i, hi, -⟩ := decode_of_covers hr h
      cases hd.symm.trans hi
    rw [List.filter_eq_nil_iff.2 rows]
    rfl

/-! ### Words that are no command -/

/-- A word that no row covers is rejected. -/
theorem decode_rejects {w : Word} (h : ∀ r ∈ opcodeMap, r.covers w = false) : ∃ e, decode w = .error e := by
  cases hd : decode w with
  | error e => exact ⟨e, rfl⟩
  | ok i =>
    obtain ⟨r, hr, hm, -⟩ := encode_covered i
    exact absurd ((covers_iff hr).2 ⟨i, hd, hm.symm⟩) (by simp [h r hr])

/-- A rejected word completes with `ILLEGAL_CMD` and the word's `IDX` (R97). -/
theorem step_rejected {s : State} {w : Word} {e : Reject} (hp : s.pending = some w) (hw : s.wait = 0)
    (hd : decode w = .error e) : step s = .next (s.raise .illegalCmd ⟨idxField w, 0xFF, 0, 0⟩) := by
  simp [step, hp, hw, runCommand, hd, illegalCommand, idxField]

/-- The layout of `ERR_INFO` for an illegal word: `INDEX = CMD[15:8]`, `SLOT = 0xFF`. -/
theorem errInfo_of_idxField (w : Word) :
    (⟨idxField w, 0xFF, 0, 0⟩ : ErrInfo).pack = 0xFF00#32 ||| ((w >>> 8) &&& 0xFF#32) := by
  have idx : (idxField w).setWidth 32 = (w >>> 8) &&& 0xFF#32 := by
    apply BitVec.eq_of_toNat_eq
    calc
      _ = w.toNat >>> 8 % 2 ^ 8 := by simp [idxField]; omega
      _ = _ := (Nat.and_two_pow_sub_one_eq_mod _ 8).symm
  rw [← idx]
  simp [ErrInfo.pack]

theorem reservedField_eq_zero_iff {w : Word} : reservedField w = 0 ↔ w >>> 17 = 0 := by
  have shift : w.toNat >>> 17 < 2 ^ 15 := by
    rw [Nat.shiftRight_eq_div_pow]
    omega
  rw [bv_eq_zero_toNat, bv_eq_zero_toNat, reservedField, BitVec.extractLsb'_toNat, BitVec.toNat_ushiftRight,
    Nat.mod_eq_of_lt shift]

/-- A command's word is none of the words that R97 lists. -/
theorem not_illegal_of_decode_ok {w : Word} {i : Instr} (hd : decode w = .ok i) :
    ¬ (((0x0B ≤ (opField w).toNat ∧ (opField w).toNat ≤ 0x0E) ∨ 0x12 ≤ (opField w).toNat) ∨ w >>> 17 ≠ 0 ∨
      (clrField w = true ∧ opField w ≠ 0x01) ∨ (idxField w ≠ 0 ∧ opField w ∈ [0x00, 0x09, 0x0A, 0x0F])) := by
  obtain ⟨reserved, op, idx, clr⟩ := decode_ok_iff.1 hd
  rw [← op, ← clr]
  rintro (undefined | high | ⟨clear, other⟩ | ⟨operand, plain⟩)
  · exact i.opcode_defined undefined
  · exact high (reservedField_eq_zero_iff.1 reserved)
  · exact other (Instr.opcode_eq_of_clearsFrame clear)
  · exact operand ((bv_eq_zero_toNat _).2 (idx ▸ Instr.operandIndex_eq_zero plain))

/-- Settles O5: a word that no row covers is rejected, and a word of R97's list has fields that no command has. -/
theorem illegalWordCompletesWithIllegalCmd : Obligations.IllegalWordCompletesWithIllegalCmd := by
  refine ⟨fun s w hp hw hrows => ?_, fun w listed r hr => Bool.eq_false_iff.2 fun hc => ?_⟩
  · obtain ⟨e, hd⟩ := decode_rejects hrows
    rw [step_rejected hp hw hd, State.raise, errInfo_of_idxField]
  · obtain ⟨i, hd, -⟩ := decode_of_covers hr hc
    exact not_illegal_of_decode_ok hd listed

/-- Settles O4: the decoder evaluates on each word. -/
theorem workedEncodingsDecode : Obligations.WorkedEncodingsDecode := by
  unfold Obligations.WorkedEncodingsDecode
  decide

end Sys2Proof
end

section
/-! Signal values (40_codec section 1): the two roundings over the rationals (00_scope R9), the quotient of a physical value
(O15), and the values of a signal that is not given and of a slot in raw mode (O16). -/

namespace Sys2Proof.Machine

/-! ### Rounding a rational -/

theorem ratRoundHA_near (q : ℚ) : |(ratRoundHA q : ℚ) - q| ≤ 1 / 2 := by
  have below := Int.floor_le (|q| + 1 / 2)
  have above := Int.lt_floor_add_one (|q| + 1 / 2)
  rw [abs_le, ratRoundHA, Int.cast_mul]
  rcases lt_trichotomy q 0 with hq | rfl | hq
  · rw [abs_of_neg hq] at *
    simp only [ratSign, hq, if_true, Int.cast_neg, Int.cast_one]
    constructor <;> linarith
  · simp [ratSign]
  · rw [abs_of_pos hq] at *
    simp only [ratSign, hq.not_gt, hq.ne', if_false, Int.cast_one]
    constructor <;> linarith

theorem ratRoundHE_near (q : ℚ) : |(ratRoundHE q : ℚ) - q| ≤ 1 / 2 := by
  have below := Int.floor_le q
  have above := Int.lt_floor_add_one q
  rw [abs_le, ratRoundHE]
  split_ifs <;> push_cast <;> constructor <;> linarith

/-- Either rounding gives an integer nearest to the rational. -/
theorem ratRound_near (rne : Bool) (q : ℚ) : |(ratRound rne q : ℚ) - q| ≤ 1 / 2 := by
  cases rne
  · exact ratRoundHA_near q
  · exact ratRoundHE_near q

/-- Rounding keeps an integer. -/
theorem ratRound_intCast (rne : Bool) (r : ℤ) : ratRound rne (r : ℚ) = r := by
  have near := ratRound_near rne r
  rw [← Int.cast_sub, ← Int.cast_abs] at near
  have close : |ratRound rne (r : ℚ) - r| < 1 := by exact_mod_cast near.trans_lt one_half_lt_one
  exact sub_eq_zero.1 (Int.abs_lt_one_iff.1 close)

/-- Two integers nearest to a rational differ only if it is halfway between them. -/
theorem fract_eq_half_of_near {q : ℚ} {a b : ℤ} (hab : a < b) (ha : |(a : ℚ) - q| ≤ 1 / 2) (hb : |(b : ℚ) - q| ≤ 1 / 2) :
    q - ⌊q⌋ = 1 / 2 := by
  obtain ⟨ha, -⟩ := abs_le.1 ha
  obtain ⟨-, hb⟩ := abs_le.1 hb
  have gap : (a : ℚ) + 1 ≤ b := by exact_mod_cast hab
  have floor : ⌊q⌋ = a := Int.floor_eq_iff.2 ⟨by linarith, by linarith⟩
  rw [floor]
  linarith

/-! ### The integer arithmetic of the model stands for the rational one -/

theorem signToNum_spec {n d : Int} (hd : d ≠ 0) :
    0 < (signToNum n d).2 ∧ ((signToNum n d).1 : ℚ) / (signToNum n d).2 = n / d := by
  unfold signToNum
  split
  · exact ⟨by omega, by push_cast; rw [neg_div_neg_eq]⟩
  · exact ⟨by omega, rfl⟩

theorem floor_intCast_div {n d : Int} (hd : 0 ≤ d) : ⌊(n : ℚ) / d⌋ = n / d := by
  rw [Int.floor_div_cast_of_nonneg hd, Int.floor_intCast]

theorem ratSign_intCast_div {n d : Int} (hd : 0 < d) : ratSign ((n : ℚ) / d) = n.sign := by
  have hd' : (0 : ℚ) < d := by exact_mod_cast hd
  rcases lt_trichotomy n 0 with hn | rfl | hn
  · have : (n : ℚ) / d < 0 := div_neg_of_neg_of_pos (by exact_mod_cast hn) hd'
    rw [Int.sign_eq_neg_one_of_neg hn, ratSign, if_pos this]
  · simp [ratSign]
  · have : 0 < (n : ℚ) / d := div_pos (by exact_mod_cast hn) hd'
    rw [Int.sign_eq_one_of_pos hn, ratSign, if_neg this.not_gt, if_neg this.ne']

theorem roundHA_eq {n d : Int} (hd : d ≠ 0) : roundHA n d = ratRoundHA ((n : ℚ) / d) := by
  obtain ⟨pos, quot⟩ := signToNum_spec (n := n) hd
  rw [← quot, roundHA]
  generalize signToNum n d = p at pos
  have pos' : (0 : ℚ) < p.2 := by exact_mod_cast pos
  have half : |(p.1 : ℚ) / p.2| + 1 / 2 = ((2 * (p.1.natAbs : Int) + p.2 : Int) : ℚ) / (2 * p.2 : Int) := by
    rw [abs_div, abs_of_pos pos', Int.natCast_natAbs]
    push_cast
    field_simp
  rw [ratRoundHA, ratSign_intCast_div pos, half, floor_intCast_div (by omega)]

theorem roundHE_eq {n d : Int} (hd : d ≠ 0) : roundHE n d = ratRoundHE ((n : ℚ) / d) := by
  obtain ⟨pos, quot⟩ := signToNum_spec (n := n) hd
  rw [← quot, roundHE]
  generalize signToNum n d = p at pos
  have pos' : (0 : ℚ) < p.2 := by exact_mod_cast pos
  have rest : (p.1 : ℚ) / p.2 - ((p.1 / p.2 : Int) : ℚ) = ((2 * (p.1 - p.1 / p.2 * p.2) : Int) : ℚ) / p.2 / 2 := by
    push_cast
    field_simp
  have below : (p.1 : ℚ) / p.2 - ((p.1 / p.2 : Int) : ℚ) < 1 / 2 ↔ 2 * (p.1 - p.1 / p.2 * p.2) < p.2 := by
    rw [rest, div_lt_div_iff_of_pos_right two_pos, div_lt_one pos', Int.cast_lt]
  have above : 1 / 2 < (p.1 : ℚ) / p.2 - ((p.1 / p.2 : Int) : ℚ) ↔ p.2 < 2 * (p.1 - p.1 / p.2 * p.2) := by
    rw [rest, div_lt_div_iff_of_pos_right two_pos, one_lt_div pos', Int.cast_lt]
  simp only [ratRoundHE, floor_intCast_div pos.le, below, above, Int.dvd_iff_emod_eq_zero]

theorem roundQuot_eq (rne : Bool) {n d : Int} (hd : d ≠ 0) : roundQuot rne n d = ratRound rne ((n : ℚ) / d) := by
  cases rne
  · exact roundHA_eq hd
  · exact roundHE_eq hd

/-! ### The raw value before clamping -/

section
variable {d : SigDesc} (hsn : d.scaleNum.toInt ≠ 0) (hsd : d.scaleDen.toNat ≠ 0) (hod : d.offDen.toNat ≠ 0)
include hsn hsd hod

/-- The quotient of R123 is the raw value of the physical value `vn / vd`. -/
theorem SigDesc.quot_eq (vn : Int) {vd : Int} (hvd : vd ≠ 0) :
    (d.quotNum vn vd : ℚ) / d.quotDen vd = ((vn : ℚ) / vd - d.offset) / d.scale := by
  have hsn' : (d.scaleNum.toInt : ℚ) ≠ 0 := by exact_mod_cast hsn
  have hsd' : (d.scaleDen.toNat : ℚ) ≠ 0 := by exact_mod_cast hsd
  have hod' : (d.offDen.toNat : ℚ) ≠ 0 := by exact_mod_cast hod
  have hvd' : (vd : ℚ) ≠ 0 := by exact_mod_cast hvd
  simp only [SigDesc.quotNum, SigDesc.quotDen, SigDesc.offset, SigDesc.scale]
  push_cast
  field_simp

/-- R124: the exact quotient, rounded. -/
theorem SigDesc.rawOfPhys_eq (rne : Bool) (vn : Int) {vd : Int} (hvd : vd ≠ 0) :
    d.rawOfPhys rne vn vd = ratRound rne (((vn : ℚ) / vd - d.offset) / d.scale) := by
  have hden : d.quotDen vd ≠ 0 := mul_ne_zero (mul_ne_zero hvd (by exact_mod_cast hod)) hsn
  rw [SigDesc.rawOfPhys, roundQuot_eq rne hden, SigDesc.quot_eq hsn hsd hod vn hvd]

theorem SigDesc.rawBeforeClamp_given (rne absentRaw0 : Bool) {v : Slot} (hp : v.present = true) (hr : v.rawIn = false)
    (hv : v.den.toNat ≠ 0) : d.rawBeforeClamp rne absentRaw0 v = ratRound rne ((v.value - d.offset) / d.scale) := by
  have rounded := SigDesc.rawOfPhys_eq hsn hsd hod rne v.num.toInt (vd := v.den.toNat) (by exact_mod_cast hv)
  simpa [SigDesc.rawBeforeClamp, hp, hr, Slot.value] using rounded

theorem SigDesc.rawBeforeClamp_absent (rne : Bool) {v : Slot} (hp : v.present = false) :
    d.rawBeforeClamp rne false v = ratRound rne ((0 - d.offset) / d.scale) := by
  have rounded := SigDesc.rawOfPhys_eq hsn hsd hod rne 0 one_ne_zero
  simpa [SigDesc.rawBeforeClamp, hp] using rounded

end

theorem SigDesc.rawBeforeClamp_absent_raw0 (d : SigDesc) (rne : Bool) {v : Slot} (hp : v.present = false) :
    d.rawBeforeClamp rne true v = 0 := by
  simp [SigDesc.rawBeforeClamp, hp]

theorem SigDesc.rawBeforeClamp_rawIn (d : SigDesc) (rne absentRaw0 : Bool) {v : Slot} (hp : v.present = true)
    (hr : v.rawIn = true) :
    d.rawBeforeClamp rne absentRaw0 v = if d.signed then v.raw.toInt else (v.raw.toNat : Int) := by
  simp [SigDesc.rawBeforeClamp, hp, hr]

/-- Settles O15: the model's quotient is the rational one, and both roundings are to nearest. -/
theorem givenValueRoundsTheExactQuotient : Obligations.GivenValueRoundsTheExactQuotient := by
  refine ⟨fun d rne absentRaw0 v hp hr hv hsn hsd hod => ⟨d.rawBeforeClamp_given hsn hsd hod rne absentRaw0 hp hr hv, ?_⟩,
    fun q hne => ?_, rfl⟩
  · have quot := d.quot_eq hsn hsd hod v.num.toInt (vd := v.den.toNat) (by exact_mod_cast hv)
    simpa [SigDesc.quotNum, SigDesc.quotDen, Slot.value] using quot.symm
  · rcases lt_or_gt_of_ne hne with h | h
    · exact fract_eq_half_of_near h (ratRound_near true q) (ratRound_near false q)
    · exact fract_eq_half_of_near h (ratRound_near false q) (ratRound_near true q)

/-- Settles O16: physical zero of a signal without offset has the integer quotient 0. -/
theorem absentAndRawModeValues : Obligations.AbsentAndRawModeValues := by
  refine ⟨fun d rne v hp hsn hsd hod => ?_, rfl, fun s m j hp hr => ?_⟩
  · have absent := d.rawBeforeClamp_absent hsn hsd hod rne hp
    refine ⟨absent, d.rawBeforeClamp_absent_raw0 rne hp, fun hoff => ?_⟩
    rw [absent, hoff, sub_zero, zero_div]
    exact ratRound_intCast rne 0
  · have raw := (s.signalOf m j).rawBeforeClamp_rawIn s.rne s.absentRaw0 hp hr
    refine ⟨raw, ?_⟩
    rw [slotRaw, slotRawBefore, raw]
    rfl

end Sys2Proof.Machine
end

section
/-! The raw value in a frame (O17), and the pair of registers that `DECODE` makes of it (O18). -/

namespace Sys2Proof.Machine

/-! ### The raw value and its range (40_codec R120, R121) -/

/-- A number of `n + 1` bits has its top bit set iff it is in the upper half. -/
theorem testBit_top {u n : Nat} (h : u < 2 ^ (n + 1)) : u.testBit n = true ↔ 2 ^ n ≤ u :=
  ⟨Nat.ge_two_pow_of_testBit, fun hle => Nat.testBit_of_two_pow_le_and_two_pow_add_one_gt hle h⟩

theorem two_pow_bits {L : Nat} (h : 1 ≤ L) : (2 : Int) ^ L = 2 * 2 ^ (L - 1) := by
  rw [← pow_succ', Nat.sub_add_cancel h]

theorem SigDesc.get_lt (d : SigDesc) (f : Memory) : d.get f < 2 ^ d.bits := fieldGet_lt ..

/-- A signal's range has as many raw values as its field has values. -/
theorem SigDesc.hi_eq {d : SigDesc} (hb : 1 ≤ d.bits) : d.hi = d.lo + 2 ^ d.bits - 1 := by
  have double := two_pow_bits hb
  unfold SigDesc.hi SigDesc.lo
  split <;> omega

theorem SigDesc.rawOf_mem_range {d : SigDesc} (hb : 1 ≤ d.bits) (f : Memory) : d.lo ≤ d.rawOf f ∧ d.rawOf f ≤ d.hi := by
  have hu : d.get f < 2 ^ (d.bits - 1 + 1) := by rw [Nat.sub_add_cancel hb]; exact d.get_lt f
  have top := testBit_top hu
  have double := two_pow_bits hb
  rw [pow_succ] at hu
  zify at hu top
  simp only [SigDesc.rawOf, SigDesc.lo, SigDesc.hi]
  cases d.signed
  · simp only [Bool.false_and, Bool.false_eq_true, if_false]
    omega
  · simp only [Bool.true_and, if_true, top]
    split <;> omega

theorem SigDesc.rawOf_emod (d : SigDesc) (f : Memory) : d.rawOf f % 2 ^ d.bits = d.get f := by
  have small : (d.get f : Int) % 2 ^ d.bits = d.get f :=
    Int.emod_eq_of_lt (by omega) (by exact_mod_cast d.get_lt f)
  simp only [SigDesc.rawOf]
  split
  · rw [Int.sub_emod_right, small]
  · exact small

theorem SigDesc.rawOf_unsigned {d : SigDesc} (h : d.signed = false) (f : Memory) : d.rawOf f = d.get f := by
  simp [SigDesc.rawOf, h]

/-- A field holds one raw value in range. -/
theorem SigDesc.rawOf_eq {d : SigDesc} {f : Memory} {r : Int} (hb : 1 ≤ d.bits) (hlo : d.lo ≤ r) (hhi : r ≤ d.hi)
    (hr : (d.get f : Int) = r % 2 ^ d.bits) : d.rawOf f = r := by
  have same : d.rawOf f ≡ r [ZMOD 2 ^ d.bits] := (d.rawOf_emod f).trans hr
  obtain ⟨lo, hi⟩ := SigDesc.rawOf_mem_range hb f
  have span := SigDesc.hi_eq hb
  have near : |d.rawOf f - r| < 2 ^ d.bits := abs_lt.2 (by omega)
  exact sub_eq_zero.1 (Int.eq_zero_of_abs_lt_dvd same.symm.dvd near)

/-- Settles O17: the sign bit of a field is its top bit. -/
theorem rawValueIsTheFieldInRange : Obligations.RawValueIsTheFieldInRange := by
  intro d f hb
  have range := SigDesc.rawOf_mem_range hb f
  refine ⟨fun hs => ?_, fun hs => ?_, d.rawOf_emod f⟩ <;> simpa [SigDesc.lo, SigDesc.hi, hs] using range

/-! ### The physical value as a pair of registers (40_codec R122) -/

theorem SigDesc.physDen_pos {d : SigDesc} (hsd : d.scaleDen.toNat ≠ 0) (hod : d.offDen.toNat ≠ 0) : 0 < d.physDen :=
  mul_pos (by omega) (by omega)

/-- The pair of R122 denotes `r * scale + offset`. -/
theorem SigDesc.phys_eq {d : SigDesc} (hsd : d.scaleDen.toNat ≠ 0) (hod : d.offDen.toNat ≠ 0) (r : Int) :
    (d.physNum r : ℚ) / d.physDen = r * d.scale + d.offset := by
  have hsd' : (d.scaleDen.toNat : ℚ) ≠ 0 := by exact_mod_cast hsd
  have hod' : (d.offDen.toNat : ℚ) ≠ 0 := by exact_mod_cast hod
  simp only [SigDesc.physNum, SigDesc.physDen, SigDesc.offset, SigDesc.scale]
  push_cast
  field_simp

/-- `DEN` holds a product of two words. -/
theorem decodedSlot_den (d : SigDesc) (r : Int) : ((decodedSlot d r).den.toNat : Int) = d.physDen := by
  have fits : d.scaleDen.toNat * d.offDen.toNat < 2 ^ 64 :=
    (Nat.mul_lt_mul_of_lt_of_lt d.scaleDen.isLt d.offDen.isLt).trans_eq (by norm_num)
  simp only [decodedSlot, SigDesc.physDen]
  rw [← Nat.cast_mul, BitVec.ofInt_natCast, BitVec.toNat_ofNat, Nat.mod_eq_of_lt fits]

theorem abs_toInt_le (x : Word) : |x.toInt| ≤ 2 ^ 31 := by
  have lower := x.le_toInt
  have upper := x.toInt_lt
  exact abs_le.2 (by omega)

/-- A raw value of at most 64 bits is below `2^64` in absolute value, whether it is signed or not. -/
theorem SigDesc.abs_rawOf_le {d : SigDesc} (hb : 1 ≤ d.bits) (hb' : d.bits ≤ 64) (f : Memory) :
    |d.rawOf f| ≤ 2 ^ 64 - 1 := by
  obtain ⟨lo, hi⟩ := SigDesc.rawOf_mem_range hb f
  have half : (2 : Int) ^ (d.bits - 1) ≤ 2 ^ 63 := pow_le_pow_right₀ (by decide) (by omega)
  have whole : (2 : Int) ^ d.bits ≤ 2 ^ 64 := pow_le_pow_right₀ (by decide) hb'
  refine abs_le.2 ?_
  cases hs : d.signed
  · simp only [SigDesc.lo, SigDesc.hi, hs, Bool.false_eq_true, if_false] at lo hi
    omega
  · simp only [SigDesc.lo, SigDesc.hi, hs, if_true] at lo hi
    omega

/-- `NUM` has room for the numerator of a raw value of at most 64 bits. -/
theorem SigDesc.abs_physNum_lt {d : SigDesc} {r : Int} (hr : |r| ≤ 2 ^ 64 - 1) : |d.physNum r| < 2 ^ 127 := by
  have hod : (d.offDen.toNat : Int) ≤ 2 ^ 32 - 1 := by have := d.offDen.isLt; omega
  have hsd : (d.scaleDen.toNat : Int) ≤ 2 ^ 32 - 1 := by have := d.scaleDen.isLt; omega
  have hsn := abs_toInt_le d.scaleNum
  have hon := abs_toInt_le d.offNum
  calc |d.physNum r|
      ≤ |r * d.scaleNum.toInt * d.offDen.toNat| + |d.offNum.toInt * d.scaleDen.toNat| := abs_add_le ..
    _ = |r| * |d.scaleNum.toInt| * d.offDen.toNat + |d.offNum.toInt| * d.scaleDen.toNat := by
        simp only [abs_mul, Nat.abs_cast]
    _ ≤ (2 ^ 64 - 1) * 2 ^ 31 * (2 ^ 32 - 1) + 2 ^ 31 * (2 ^ 32 - 1) := by gcongr
    _ < 2 ^ 127 := by norm_num

theorem decodedSlot_num {d : SigDesc} {r : Int} (hr : |r| ≤ 2 ^ 64 - 1) :
    (decodedSlot d r).num.toInt = d.physNum r := by
  obtain ⟨lower, upper⟩ := abs_lt.1 (SigDesc.abs_physNum_lt (d := d) hr)
  exact BitVec.toInt_ofInt_eq_self (by decide) lower.le upper

/-- R122: the pair that `DECODE` stores denotes the physical value exactly. -/
theorem decodedSlot_value {d : SigDesc} {r : Int} (hsd : d.scaleDen.toNat ≠ 0) (hod : d.offDen.toNat ≠ 0)
    (hr : |r| ≤ 2 ^ 64 - 1) : (decodedSlot d r).value = r * d.scale + d.offset := by
  have den : ((decodedSlot d r).den.toNat : ℚ) = d.physDen := by exact_mod_cast decodedSlot_den d r
  rw [Slot.value, decodedSlot_num hr, den, SigDesc.phys_eq hsd hod]

/-- Settles O18: numerator and denominator fit their registers, so the pair is stored as it is. -/
theorem decodedPairIsTheExactPhysicalValue : Obligations.DecodedPairIsTheExactPhysicalValue := by
  intro d f hb hb' hsd hod
  have bound := SigDesc.abs_rawOf_le hb hb' f
  refine ⟨decodedSlot_value hsd hod bound, decodedSlot_num bound, decodedSlot_den d _, ?_⟩
  cases hs : d.signed
  · simp [decodedSlot, SigDesc.rawOf_unsigned hs]
  · rfl

end Sys2Proof.Machine
end

section
/-! `ENCODE`, `DECODE` and `VCLR` (40_codec section 2): what they leave in the slots and in the frame (O14, O22, O24), and the
slot that `ENCODE` refuses (O23). -/

namespace Sys2Proof.Machine

/-! ### How the codec commands end -/

theorem Slot.badValue_iff {v : Slot} : v.badValue = true ↔ v.refusedByEncode := by
  simp [Slot.badValue, Slot.refusedByEncode, and_assoc]

theorem badValueSlot_none_iff {m : MsgDesc} {s : State} :
    badValueSlot m s = none ↔ ∀ j < m.sigCount.toNat, ¬ (s.slot j).refusedByEncode := by
  simp [badValueSlot, ← Slot.badValue_iff]

theorem badValueSlot_eq_some {m : MsgDesc} {s : State} {j : Nat} (hj : j < m.sigCount.toNat)
    (hr : (s.slot j).refusedByEncode) (hk : ∀ k < j, ¬ (s.slot k).refusedByEncode) : badValueSlot m s = some j := by
  rw [badValueSlot, List.find?_range_eq_some]
  exact ⟨Slot.badValue_iff.2 hr, List.mem_range.2 hj, fun k h => by simpa using mt Slot.badValue_iff.1 (hk k h)⟩

section
variable {s : State} {i : Nat} (hp : s.phase = .operate) (hi : i < 64) (he : (s.msg i).en = true)
include hp hi he

theorem exec_encode_good (clr : Bool) (hv : ∀ j < (s.msg i).sigCount.toNat, ¬ (s.slot j).refusedByEncode) :
    exec (.encode i clr) s = .next (encodeMessage (s.msg i) clr s).complete := by
  rw [exec, execEncode, withMessage_ok hp hi he, badValueSlot_none_iff.2 hv]

theorem exec_encode_refused (clr : Bool) {j : Nat} (hv : badValueSlot (s.msg i) s = some j) :
    exec (.encode i clr) s = .next (s.raise .badValue ⟨BitVec.ofNat 8 i, BitVec.ofNat 8 j, 0, 0⟩) := by
  rw [exec, execEncode, withMessage_ok hp hi he, hv]

theorem exec_decode_good (hl : s.flen = (s.msg i).len) :
    exec (.decode i) s = .next (decodeMessage (s.msg i) s).complete := by
  rw [exec, execDecode, withMessage_ok hp hi he, if_pos hl]

end

/-- `ERR_INFO` of an error at a slot: `SLOT << 8 OR INDEX` (60_exceptions R252). -/
theorem errInfo_of_slot {i j : Nat} (hi : i < 256) (hj : j < 256) :
    (⟨BitVec.ofNat 8 i, BitVec.ofNat 8 j, 0, 0⟩ : ErrInfo).pack = BitVec.ofNat 32 (256 * j + i) := by
  have fields : j * 256 ||| i = 256 * j + i := by
    rw [Nat.mul_comm]
    exact (Nat.two_pow_add_eq_or_of_lt (i := 8) hi j).symm
  apply BitVec.eq_of_toNat_eq
  simp (disch := omega) [ErrInfo.pack, Nat.mod_eq_of_lt, Nat.shiftLeft_eq, fields]

/-- Settles O23: the search for a slot without value stops at the lowest one. -/
theorem encodeRefusesASlotWithoutValue : Obligations.EncodeRefusesASlotWithoutValue := by
  intro s i clr j hp hi he hj hr hk
  have small := (s.msg i).sigCount.isLt
  rw [exec_encode_refused hp hi he clr (badValueSlot_eq_some hj hr hk), State.raise,
    errInfo_of_slot (by omega) (by omega)]

/-- Settles O14: one word has the fields of `VCLR`, and a slot that no entry of the value file holds is at its reset value. -/
theorem vclrRestoresTheValueFile : Obligations.VclrRestoresTheValueFile := by
  refine ⟨fun w => ⟨fun h => (encodingADecodedWordGivesItBack w .vclr h).1.symm, fun h => ?_⟩,
    fun s => ⟨_, rfl, fun j => rfl, rfl⟩⟩
  subst h
  decide

/-! ### The slots -/

/-- `ENCODE` writes the slots of its message (40_codec R125, R128). -/
theorem encodeMessage_slot {m : MsgDesc} (hn : m.sigCount.toNat ≤ 64) (clr : Bool) (s : State) (j : Nat) :
    (encodeMessage m clr s).complete.slot j = if j < m.sigCount.toNat then encodedSlot m s j else s.slot j :=
  tableRead_foldl_slotsSet _ hn s.vals (encodedSlot m s) j

/-- `DECODE` writes the slots of its message (40_codec R129). -/
theorem decodeMessage_slot {m : MsgDesc} (hn : m.sigCount.toNat ≤ 64) (s : State) (j : Nat) :
    (decodeMessage m s).complete.slot j = if j < m.sigCount.toNat then unpackedSlot m s j else s.slot j :=
  tableRead_foldl_slotsSet _ hn s.vals (unpackedSlot m s) j

theorem unpackedSlot_eq (m : MsgDesc) (s : State) (j : Nat) :
    unpackedSlot m s j = decodedSlot (s.signalOf m j) ((s.signalOf m j).rawOf s.fbuf) := rfl

/-- `STATUS.OOR` says whether a value was clamped (40_codec R125). -/
theorem encodeMessage_oor_iff (m : MsgDesc) (clr : Bool) (s : State) :
    (encodeMessage m clr s).complete.oor = true ↔ ∃ j < m.sigCount.toNat, slotRaw m s j ≠ slotRawBefore m s j := by
  simp [slotClamped]

/-! ### The frame -/

/-- Clearing sets the bits of the message to 0 (30_encoding R93). -/
theorem frameBitGet_startFrame {m : MsgDesc} (hl : m.len.toNat ≤ 64) (clr : Bool) (f : Memory) (b : Nat) :
    frameBitGet (startFrame m clr f) b = if clr = true ∧ b < 8 * m.len.toNat then false else frameBitGet f b := by
  cases clr
  · simp [startFrame]
  · have inside : (b / 8 < m.len.toNat ∧ b / 8 < 64) ↔ b < 8 * m.len.toNat := by omega
    simp only [startFrame, if_true, frameBitGet, Memory.read_clear, inside, true_and]
    split <;> simp

/-- A field of at most 64 bytes reads back what was put in it. -/
theorem SigDesc.get_put {d : SigDesc} {u : Nat} (f : Memory) (hw : d.within 64 = true) (hu : u < 2 ^ d.bits) :
    d.get (d.put f u) = u :=
  fieldGet_fieldSet f hw hu

/-- Putting a field leaves a field without common bits. -/
theorem SigDesc.get_put_other {a b : SigDesc} (f : Memory) (u : Nat) (h : ∀ x ∈ a.frameBits, x ∉ b.frameBits) :
    a.get (b.put f u) = a.get f :=
  fieldGet_congr fun x hx => frameBitGet_fieldSet_other _ _ _ _ _ _ (h x hx)

/-- The field value of slot `j`, `r mod 2^L` (40_codec R128). -/
def slotField (m : MsgDesc) (s : State) (j : Nat) : Nat := (slotRaw m s j % 2 ^ (s.signalOf m j).bits).toNat

theorem slotField_cast (m : MsgDesc) (s : State) (j : Nat) :
    (slotField m s j : Int) = slotRaw m s j % 2 ^ (s.signalOf m j).bits :=
  Int.toNat_of_nonneg (Int.emod_nonneg _ (by positivity))

theorem slotField_lt (m : MsgDesc) (s : State) (j : Nat) : slotField m s j < 2 ^ (s.signalOf m j).bits := by
  have := Int.emod_lt_of_pos (slotRaw m s j) (b := 2 ^ (s.signalOf m j).bits) (by positivity)
  rw [← slotField_cast] at this
  exact_mod_cast this

/-- One turn of the loop of `ENCODE`. -/
theorem packFrame_succ (m : MsgDesc) (s : State) (n : Nat) (f : Memory) :
    packFrame m s (List.range (n + 1)) f =
      (s.signalOf m n).put (packFrame m s (List.range n) f) (slotField m s n) := by
  simp [packFrame, List.range_succ, slotField]

/-- The fields of a valid message do not overlap, so each holds its own value after the loop (40_codec R128). -/
theorem get_packFrame {s : State} {i : Nat} {m : MsgDesc} (hv : MessageValid s i m) (f : Memory) {n j : Nat} (hj : j < n)
    (hn : n ≤ m.sigCount.toNat) :
    (s.signalOf m j).get (packFrame m s (List.range n) f) = slotField m s j := by
  induction n with
  | zero => omega
  | succ n ih =>
    rw [packFrame_succ]
    rcases Nat.lt_succ_iff_lt_or_eq.1 hj with hlt | rfl
    · rw [SigDesc.get_put_other _ _ (hv.noOverlap j n hlt hn)]
      exact ih hlt (by omega)
    · exact SigDesc.get_put _ (fieldWithin_mono (hv.withinFrame j hn) hv.len.2) (slotField_lt m s j)

/-- Settles O22: the slots, the fields and the bits outside them, each from its own lemma. -/
theorem encodePacksClampedValues : Obligations.EncodePacksClampedValues := by
  intro s i clr hp hi he hv hgood m d r0 r
  have slots := encodeMessage_slot hv.signalRange.1 clr s
  refine ⟨_, exec_encode_good hp hi he clr hgood, fun j hj => ?_, fun j hj => (slots j).trans (if_pos hj),
    fun j hj => (slots j).trans (if_neg hj.not_gt), encodeMessage_oor_iff m clr s, fun b hb => ?_, rfl⟩
  · rw [State.complete_fbuf, encodeMessage_fbuf]
    exact (congrArg _ (get_packFrame hv _ hj le_rfl)).trans (slotField_cast m s j)
  · exact (frameBitGet_packFrame_other _ _ _ _ _ hb).trans (frameBitGet_startFrame hv.len.2 clr s.fbuf b)

/-- Settles O24: the stored denominator is the product of the descriptor's denominators. -/
theorem decodeFillsTheSlots : Obligations.DecodeFillsTheSlots := by
  intro s i hp hi he hv hl
  have slots := decodeMessage_slot hv.signalRange.1 s
  refine ⟨_, exec_decode_good hp hi he hl, fun j hj => ?_, fun j hj => (slots j).trans (if_neg hj.not_gt), rfl⟩
  refine (slots j).trans ((if_pos hj).trans ?_)
  rw [unpackedSlot_eq, decodedSlot, SigDesc.physDen, ← Nat.cast_mul, BitVec.ofInt_natCast]
  rfl

end Sys2Proof.Machine
end

section
/-! Decode and encode undo each other (40_codec section 3): a frame decoded and encoded again is the same frame (O26, R132),
and a value encoded and decoded comes back within half a scale (O27, R131). -/

namespace Sys2Proof.Machine

/-! ### A value in range -/

theorem SigDesc.scale_ne_zero {d : SigDesc} (hsn : d.scaleNum.toInt ≠ 0) (hsd : d.scaleDen.toNat ≠ 0) : d.scale ≠ 0 :=
  div_ne_zero (by exact_mod_cast hsn) (by exact_mod_cast hsd)

theorem SigDesc.clampRaw_of_mem {d : SigDesc} {r : Int} (hlo : d.lo ≤ r) (hhi : r ≤ d.hi) : d.clampRaw r = r := by
  rw [SigDesc.clampRaw, clamp, max_eq_left hlo, min_eq_left hhi]

/-- A rounded quotient is off by at most half, so the physical value it denotes is off by at most half a scale. -/
theorem abs_physical_sub_le {scale offset v : ℚ} {r : ℤ} (hs : scale ≠ 0) (h : |(r : ℚ) - (v - offset) / scale| ≤ 1 / 2) :
    |r * scale + offset - v| ≤ |scale| / 2 := by
  have error : r * scale + offset - v = (r - (v - offset) / scale) * scale := by
    field_simp
    ring
  rw [error, abs_mul]
  calc |(r : ℚ) - (v - offset) / scale| * |scale|
      ≤ 1 / 2 * |scale| := by gcongr
    _ = |scale| / 2 := by ring

/-! ### Encoding a decoded frame -/

/-- The pair that `DECODE` makes of a raw value encodes to that raw value. -/
theorem SigDesc.rawBeforeClamp_decodedSlot {d : SigDesc} {r : Int} (hsn : d.scaleNum.toInt ≠ 0)
    (hsd : d.scaleDen.toNat ≠ 0) (hod : d.offDen.toNat ≠ 0) (hr : |r| ≤ 2 ^ 64 - 1) (rne absentRaw0 : Bool) :
    d.rawBeforeClamp rne absentRaw0 (decodedSlot d r) = r := by
  have den := decodedSlot_den d r
  have pos := SigDesc.physDen_pos hsd hod
  rw [d.rawBeforeClamp_given hsn hsd hod rne absentRaw0 rfl rfl (by omega), decodedSlot_value hsd hod hr,
    add_sub_cancel_right, mul_div_cancel_right₀ _ (SigDesc.scale_ne_zero hsn hsd), ratRound_intCast]

theorem decodedSlot_not_refused {d : SigDesc} (hsd : d.scaleDen.toNat ≠ 0) (hod : d.offDen.toNat ≠ 0) (r : Int) :
    ¬ (decodedSlot d r).refusedByEncode := by
  rintro ⟨-, -, zero⟩
  have den := decodedSlot_den d r
  have pos := SigDesc.physDen_pos hsd hod
  rw [bv_eq_zero_toNat] at zero
  omega

/-- `DECODE` keeps the descriptors, so a valid message stays valid. -/
theorem MessageValid.decoded {s : State} {i : Nat} {m : MsgDesc} (hv : MessageValid s i m) (m' : MsgDesc) :
    MessageValid (decodeMessage m' s).complete i m :=
  { hv with }

section
variable {s : State} {i : Nat} {m : MsgDesc} (hv : MessageValid s i m) {j : Nat} (hj : j < m.sigCount.toNat)
include hv hj

theorem slotRawBefore_decoded :
    slotRawBefore m (decodeMessage m s).complete j = (s.signalOf m j).rawOf s.fbuf := by
  obtain ⟨hb, hb'⟩ := hv.signalLength j hj
  obtain ⟨hsd, hod⟩ := hv.denNonzero j hj
  rw [slotRawBefore, decodeMessage_slot hv.signalRange.1, if_pos hj, unpackedSlot_eq]
  exact SigDesc.rawBeforeClamp_decodedSlot (hv.scaleNonzero j hj) hsd hod (SigDesc.abs_rawOf_le hb hb' _) _ _

/-- A raw value read from a frame is in range, so nothing is clamped. -/
theorem slotRaw_decoded : slotRaw m (decodeMessage m s).complete j = (s.signalOf m j).rawOf s.fbuf := by
  obtain ⟨lo, hi⟩ := SigDesc.rawOf_mem_range (hv.signalLength j hj).1 s.fbuf
  rw [slotRaw, slotRawBefore_decoded hv hj]
  exact SigDesc.clampRaw_of_mem lo hi

theorem slotField_decoded : slotField m (decodeMessage m s).complete j = (s.signalOf m j).get s.fbuf := by
  have cast := slotField_cast m (decodeMessage m s).complete j
  rw [slotRaw_decoded hv hj] at cast
  exact_mod_cast cast.trans (SigDesc.rawOf_emod _ s.fbuf)

theorem encodedSlot_decoded :
    encodedSlot m (decodeMessage m s).complete j = (decodeMessage m s).complete.slot j := by
  have kept : slotClamped m (decodeMessage m s).complete j = false := by
    simp [slotClamped, slotRaw_decoded hv hj, slotRawBefore_decoded hv hj]
  rw [encodedSlot, slotRaw_decoded hv hj, kept, decodeMessage_slot hv.signalRange.1, if_pos hj]
  rfl

end

/-- A field's value determines its bits. -/
theorem SigDesc.frameBitGet_eq_of_get_eq {d : SigDesc} {f g : Memory} (h : d.get f = d.get g) {b : Nat}
    (hb : b ∈ d.frameBits) : frameBitGet f b = frameBitGet g b := by
  obtain ⟨k, hk, rfl⟩ := mem_fieldBits.1 hb
  have bit := congrArg (·.testBit k) h
  simpa [SigDesc.get, testBit_fieldGet, hk] using bit

/-- Packing the values that the fields hold already changes no bit. -/
theorem packFrame_read_self {s : State} {i : Nat} {m : MsgDesc} (hv : MessageValid s i m) {f : Memory}
    (h : ∀ j < m.sigCount.toNat, slotField m s j = (s.signalOf m j).get f) (a : Nat) :
    (packFrame m s (List.range m.sigCount.toNat) f).read a = f.read a := by
  refine Memory.read_ext _ _ _ fun b _ => ?_
  by_cases inside : ∃ j < m.sigCount.toNat, 8 * a + b ∈ (s.signalOf m j).frameBits
  · obtain ⟨j, hj, hmem⟩ := inside
    exact SigDesc.frameBitGet_eq_of_get_eq ((get_packFrame hv f hj le_rfl).trans (h j hj)) hmem
  · exact frameBitGet_packFrame_other _ _ _ _ _ fun j hj hmem => inside ⟨j, hj, hmem⟩

/-- Settles O26: the state after `DECODE` gives back each raw value, so `ENCODE` packs what the fields hold already. -/
theorem reencodingADecodedFrameKeepsIt : Obligations.ReencodingADecodedFrameKeepsIt := by
  intro s i hs hp hi he hl
  have hv : MessageValid s i (s.msg i) := (hs.catalogValid hp).messages i hi he
  have hn := hv.signalRange.1
  have good : ∀ j < (s.msg i).sigCount.toNat,
      ¬ ((decodeMessage (s.msg i) s).complete.slot j).refusedByEncode := fun j hj => by
    obtain ⟨hsd, hod⟩ := hv.denNonzero j hj
    rw [decodeMessage_slot hn, if_pos hj]
    exact decodedSlot_not_refused hsd hod _
  refine ⟨_, _, exec_decode_good hp hi he hl,
    exec_encode_good (s := (decodeMessage (s.msg i) s).complete) hp hi he false good,
    packFrame_read_self (hv.decoded _) fun j hj => slotField_decoded hv hj, ?_, hl.symm, fun j => ?_⟩
  · refine Bool.eq_false_iff.2 fun clamped => ?_
    obtain ⟨j, hj, hne⟩ := (encodeMessage_oor_iff (s.msg i) false (decodeMessage (s.msg i) s).complete).1 clamped
    exact hne ((slotRaw_decoded hv hj).trans (slotRawBefore_decoded hv hj).symm)
  · refine (encodeMessage_slot hn false _ j).trans ?_
    split
    · exact encodedSlot_decoded hv ‹_›
    · rfl

/-! ### Decoding an encoded value -/

/-- A raw value in range comes back from the frame that `ENCODE` packed it into. -/
theorem rawOf_encoded {s : State} {i j : Nat} {m : MsgDesc} (hv : MessageValid s i m) (hj : j < m.sigCount.toNat)
    (clr : Bool) (hlo : (s.signalOf m j).lo ≤ slotRawBefore m s j) (hhi : slotRawBefore m s j ≤ (s.signalOf m j).hi) :
    (s.signalOf m j).rawOf (encodeMessage m clr s).fbuf = slotRawBefore m s j := by
  refine SigDesc.rawOf_eq (hv.signalLength j hj).1 hlo hhi ?_
  rw [encodeMessage_fbuf, get_packFrame hv _ hj le_rfl, slotField_cast, slotRaw, SigDesc.clampRaw_of_mem hlo hhi]

/-- Settles O27: the raw value that comes back is the rounded quotient. -/
theorem encodedValueDecodesWithinHalfAScale : Obligations.EncodedValueDecodesWithinHalfAScale := by
  intro s i j clr hs hp hi he hgood hj hpres hraw d q hlo hhi
  have hv : MessageValid s i (s.msg i) := (hs.catalogValid hp).messages i hi he
  obtain ⟨hb, hb'⟩ := hv.signalLength j hj
  obtain ⟨hsd, hod⟩ := hv.denNonzero j hj
  have hsn := hv.scaleNonzero j hj
  have hscale : d.scale ≠ 0 := SigDesc.scale_ne_zero hsn hsd
  have hden : (s.slot j).den.toNat ≠ 0 := fun zero => hgood j hj ⟨hpres, hraw, (bv_eq_zero_toNat _).2 zero⟩
  have before : slotRawBefore (s.msg i) s j = ratRound s.rne q :=
    SigDesc.rawBeforeClamp_given hsn hsd hod s.rne s.absentRaw0 hpres hraw hden
  have back : d.rawOf (encodeMessage (s.msg i) clr s).fbuf = ratRound s.rne q := by
    rw [← before] at hlo hhi ⊢
    exact rawOf_encoded hv hj clr hlo hhi
  have bound := SigDesc.abs_rawOf_le hb hb' (encodeMessage (s.msg i) clr s).fbuf
  have value : ((decodeMessage (s.msg i) (encodeMessage (s.msg i) clr s).complete).complete.slot j).value =
      (ratRound s.rne q : ℚ) * d.scale + d.offset := by
    rw [decodeMessage_slot hv.signalRange.1, if_pos hj, ← back]
    exact decodedSlot_value hsd hod bound
  refine ⟨_, _, exec_encode_good hp hi he clr hgood, exec_decode_good hp hi he rfl, ?_, ?_⟩
  · exact value ▸ abs_physical_sub_le hscale (ratRound_near s.rne q)
  · rintro ⟨r, hr⟩
    have quot : q = r := by simp only [q, hr, add_sub_cancel_right, mul_div_cancel_right₀ _ hscale]
    rw [quot, ratRound_intCast] at value
    exact value.trans hr.symm

end Sys2Proof.Machine
end

section
/-! Checksum and counter (41_checksum_counter): the CRC (O28), the checksum commands (O29 to O33) and the counter commands
(O34, O35). -/

namespace Sys2Proof.Machine

/-! ### The covered bytes (41_checksum_counter R161) -/

/-- The range over the naturals, where a subtraction stops at 0, is the spec's range over the integers. -/
theorem MsgDesc.mem_coveredIndices {m : MsgDesc} {k : Nat} :
    k ∈ m.coveredIndices ↔ m.csStart.toNat ≤ k ∧ (k : Int) < (m.csEnd.toNat : Int) - m.csExcl.toNat := by
  rw [MsgDesc.coveredIndices, List.mem_range'_1]
  omega

/-- Both lists of indices ascend, so it is enough that they have the same members. -/
theorem MsgDesc.covered_eq (m : MsgDesc) (f : Memory) : m.covered f = m.coveredBytes f := by
  rw [MsgDesc.covered, MsgDesc.coveredBytes]
  congr 1
  refine (List.pairwise_lt_range' (s := m.csStart.toNat)).eq_of_mem_iff (List.pairwise_lt_range.filter _) fun k => ?_
  have inside : k ∈ m.coveredIndices → k < 256 := fun h => by
    have below := (MsgDesc.mem_coveredIndices.1 h).2
    have small := m.csEnd.isLt
    omega
  rw [← MsgDesc.coveredIndices, List.mem_filter, List.mem_range, Bool.and_eq_true, decide_eq_true_eq, decide_eq_true_eq,
    ← MsgDesc.mem_coveredIndices]
  exact ⟨fun h => ⟨inside h, h⟩, And.right⟩

theorem MsgDesc.covered_congr {m : MsgDesc} {f g : Memory}
    (h : ∀ k, m.csStart.toNat ≤ k → (k : Int) < (m.csEnd.toNat : Int) - m.csExcl.toNat → f.read k = g.read k) :
    m.covered f = m.covered g :=
  List.map_congr_left fun k hk => (MsgDesc.mem_coveredIndices.1 hk).elim (h k)

/-! ### Compute and validate, by strategy (41_checksum_counter R162) -/

theorem MsgDesc.computed_crc8 {m : MsgDesc} (ha : m.csAlg = .crc8) (f : Memory) :
    m.computed f = some (crc8 (m.coveredBytes f) m.csFxor) := by
  simp only [MsgDesc.computed, ha, MsgDesc.covered_eq]

theorem MsgDesc.computed_passthrough {m : MsgDesc} (ha : m.csAlg = .passthrough) (f : Memory) :
    m.computed f = some (f.read m.csPos.toNat) := by
  simp only [MsgDesc.computed, ha, MsgDesc.checksumByte]

theorem MsgDesc.verdict_crc8 {m : MsgDesc} (ha : m.csAlg = .crc8) (f : Memory) :
    m.verdict f = some (crc8 (m.coveredBytes f) m.csFxor, f.read m.csPos.toNat,
      decide (crc8 (m.coveredBytes f) m.csFxor = f.read m.csPos.toNat)) := by
  simp only [MsgDesc.verdict, ha, MsgDesc.covered_eq, MsgDesc.checksumByte]

theorem MsgDesc.verdict_passthrough {m : MsgDesc} (ha : m.csAlg = .passthrough) (f : Memory) :
    m.verdict f = some (f.read m.csPos.toNat, f.read m.csPos.toNat, true) := by
  simp only [MsgDesc.verdict, ha, MsgDesc.checksumByte]

theorem MsgDesc.verdict_counterOnly {m : MsgDesc} (ha : m.csAlg = .counterOnly) (f : Memory) :
    m.verdict f = some (0, 0, true) := by
  simp only [MsgDesc.verdict, ha]

theorem MsgDesc.verdict_congr {m : MsgDesc} {f g : Memory} (hc : m.covered f = m.covered g)
    (hp : m.checksumByte f = m.checksumByte g) : m.verdict f = m.verdict g := by
  simp only [MsgDesc.verdict, hc, hp]

/-- Settles O28: the CRC evaluates on each vector, and without bytes only the final XOR is left. -/
theorem crcVectorsHold : Obligations.CrcVectorsHold :=
  ⟨by decide +kernel, by decide +kernel, by decide +kernel, by decide +kernel, fun _ => rfl⟩

/-! ### How the checksum commands end -/

section
variable {s : State} {i : Nat} (hp : s.phase = .operate) (hi : i < 64) (he : (s.msg i).en = true)
include hp hi he

theorem exec_cscomp_computed {c : Byte} (hc : (s.msg i).computed s.fbuf = some c) :
    exec (.cscomp i) s = .next ({ s with result0 := c.setWidth 32 } : State).complete := by
  rw [exec, execCscomp, withMessage_ok hp hi he, hc]

theorem exec_csins_computed {c : Byte} (hc : (s.msg i).computed s.fbuf = some c) :
    exec (.csins i) s =
      .next ({ s with fbuf := s.fbuf.write (s.msg i).csPos.toNat c, result0 := c.setWidth 32 } : State).complete := by
  rw [exec, execCsins, withMessage_ok hp hi he, hc]

theorem exec_csval_verdict (hl : s.flen = (s.msg i).len) {c rx : Byte} {valid : Bool}
    (hv : (s.msg i).verdict s.fbuf = some (c, rx, valid)) :
    exec (.csval i) s =
      .next ({ s with result0 := c.setWidth 32, result1 := rx.setWidth 32, csumValid := valid } : State).complete := by
  rw [exec, execCsval, withMessage_ok hp hi he, hv]
  exact if_pos hl

end

/-- Settles O29: what compute gives under either strategy. -/
theorem cscompGivesTheChecksum : Obligations.CscompGivesTheChecksum := fun s _ hp hi he =>
  ⟨fun ha => exec_cscomp_computed hp hi he (MsgDesc.computed_crc8 ha s.fbuf),
    fun ha => exec_cscomp_computed hp hi he (MsgDesc.computed_passthrough ha s.fbuf)⟩

/-- Settles O31: what validate finds under each strategy. -/
theorem csvalReportsTheVerdict : Obligations.CsvalReportsTheVerdict := fun s _ hp hi he hl =>
  ⟨fun ha => exec_csval_verdict hp hi he hl (MsgDesc.verdict_crc8 ha s.fbuf),
    fun ha => exec_csval_verdict hp hi he hl (MsgDesc.verdict_passthrough ha s.fbuf),
    fun ha => exec_csval_verdict hp hi he hl (MsgDesc.verdict_counterOnly ha s.fbuf)⟩

/-! ### Inserting a checksum -/

/-- A strategy with a checksum byte in the frame computes one. -/
theorem MsgDesc.computed_of_csAlg {m : MsgDesc} (ha : m.csAlg = .crc8 ∨ m.csAlg = .passthrough) (f : Memory) :
    m.computed f = some (if m.csAlg = .crc8 then crc8 (m.coveredBytes f) m.csFxor else f.read m.csPos.toNat) := by
  by_cases hc : m.csAlg = .crc8
  · rw [MsgDesc.computed_crc8 hc, if_pos hc]
  · rw [MsgDesc.computed_passthrough (ha.resolve_left hc), if_neg hc]

/-- The checksum byte of a valid message lies in the frame buffer, so it reads back what was written there. -/
theorem MessageValid.read_write_csPos {s : State} {i : Nat} {m : MsgDesc} (hv : MessageValid s i m)
    (ha : m.csAlg = .crc8 ∨ m.csAlg = .passthrough) (f : Memory) (c : Byte) :
    (f.write m.csPos.toNat c).read m.csPos.toNat = c := by
  have inside := hv.csPos ha
  have small := hv.len.2
  rw [Memory.read_write, if_pos ⟨rfl, by omega⟩]

theorem Memory.read_write_other (f : Memory) {a b : Nat} (h : b ≠ a) (c : Byte) : (f.write a c).read b = f.read b := by
  rw [Memory.read_write, if_neg fun e => h e.1]

/-- Settles O30: the byte written is the one computed. -/
theorem csinsWritesTheChecksumByte : Obligations.CsinsWritesTheChecksumByte := by
  intro s i hp hi he hv m ha
  have back := hv.read_write_csPos ha s.fbuf
  refine ⟨_, exec_csins_computed hp hi he (MsgDesc.computed_of_csAlg ha s.fbuf), back _,
    fun a hne => Memory.read_write_other s.fbuf hne _, ?_⟩
  simp only [State.complete, m, back]

/-- The checksum byte of a valid message is not one of the covered bytes (43_control R232), so inserting a checksum leaves
them. -/
theorem MessageValid.covered_write_csPos {s : State} {i : Nat} {m : MsgDesc} (hv : MessageValid s i m)
    (ha : m.csAlg = .crc8) (f : Memory) (c : Byte) : m.covered (f.write m.csPos.toNat c) = m.covered f :=
  MsgDesc.covered_congr fun k hlo hhi =>
    Memory.read_write_other f (fun e => hv.csPosNotCovered ha (by omega)) c

/-- A frame with the computed checksum inserted is found valid. -/
theorem MessageValid.verdict_inserted {s : State} {i : Nat} {m : MsgDesc} (hv : MessageValid s i m) {f : Memory} {c : Byte}
    (hc : m.computed f = some c) : m.verdict (f.write m.csPos.toNat c) = some (c, c, true) := by
  have ha := MsgDesc.csAlg_of_computed hc
  have back := hv.read_write_csPos ha f c
  rcases ha with ha | ha
  · have kept : crc8 (m.coveredBytes (f.write m.csPos.toNat c)) m.csFxor = c := by
      rw [← MsgDesc.covered_eq, hv.covered_write_csPos ha, MsgDesc.covered_eq]
      exact Option.some_inj.1 ((MsgDesc.computed_crc8 ha f).symm.trans hc)
    rw [MsgDesc.verdict_crc8 ha, kept, back, decide_eq_true rfl]
  · rw [MsgDesc.verdict_passthrough ha, back]

/-- Settles O32: `CSINS` keeps the descriptors and `FLEN`, so `CSVAL` runs on the frame with the checksum inserted. -/
theorem insertedChecksumValidates : Obligations.InsertedChecksumValidates := by
  intro s i hs hp hi he hl ha
  have hv : MessageValid s i (s.msg i) := (hs.catalogValid hp).messages i hi he
  obtain ⟨c, computed⟩ : ∃ c, (s.msg i).computed s.fbuf = some c := ⟨_, MsgDesc.computed_of_csAlg ha s.fbuf⟩
  have validated := exec_csval_verdict
    (s := State.complete { s with fbuf := s.fbuf.write (s.msg i).csPos.toNat c, result0 := c.setWidth 32 })
    hp hi he hl (hv.verdict_inserted computed)
  exact ⟨_, _, exec_csins_computed hp hi he computed, validated, rfl, rfl⟩

/-! ### What a checksum does not depend on -/

/-- The state with another frame in the buffer. -/
def State.withFrame (s : State) (f : Memory) : State := { s with fbuf := f }

@[simp] theorem State.withFrame_phase (s : State) (f : Memory) : (s.withFrame f).phase = s.phase := rfl

@[simp] theorem messageOperand_withFrame (i : Nat) (s : State) (f : Memory) :
    messageOperand i (s.withFrame f) = messageOperand i s := rfl

/-- The results are one next state but for the frame, which is `f` in the second. -/
def SameButFrame (f : Memory) (r r' : Result) : Prop := ∃ t, r = .next t ∧ r' = .next (t.withFrame f)

theorem failCommand_sameButFrame (f : Memory) (c : ErrCode) (i : Nat) (s : State) :
    SameButFrame f (failCommand c i s) (failCommand c i (s.withFrame f)) :=
  ⟨_, rfl, rfl⟩

/-- The common checks of a message command do not look at the frame. -/
theorem withMessage_sameButFrame {s : State} {f : Memory} {i : Nat} {body body' : MsgDesc → Result}
    (h : SameButFrame f (body (s.msg i)) (body' (s.msg i))) :
    SameButFrame f (withMessage i s body) (withMessage i (s.withFrame f) body') := by
  simp only [withMessage, needOperate, State.withFrame_phase, messageOperand_withFrame]
  cases s.phase with
  | config => exact failCommand_sameButFrame ..
  | operate =>
    simp only [messageOperand]
    split_ifs
    · exact h
    · exact failCommand_sameButFrame ..

/-- Settles O33: the verdict is the same, and `CSVAL` looks at the frame for nothing else. -/
theorem excludedBytesDoNotInfluenceTheVerdict : Obligations.ExcludedBytesDoNotInfluenceTheVerdict := by
  intro s f i m hcov hpos
  have same : m.verdict f = m.verdict s.fbuf := MsgDesc.verdict_congr (MsgDesc.covered_congr hcov) hpos
  refine withMessage_sameButFrame ?_
  rw [same]
  cases m.verdict s.fbuf with
  | none => exact failCommand_sameButFrame ..
  | some v =>
    by_cases hl : s.flen = m.len
    · exact ⟨_, if_pos hl, if_pos hl⟩
    · exact ⟨_, if_neg hl, if_neg hl⟩

/-! ### The rolling counter (41_checksum_counter section 3) -/

section
variable {s : State} {i : Nat} (hp : s.phase = .operate) (hi : i < 64) (he : (s.msg i).en = true)
  (hc : (s.msg i).cntEn = true)
include hp hi he hc

theorem exec_cntrd_counter :
    exec (.cntrd i) s = .next ({ s with result0 := BitVec.ofNat 32 ((s.msg i).counterGet s.fbuf) } : State).complete :=
  withCounter_ok hp hi he hc _

theorem exec_cntwr_counter :
    exec (.cntwr i) s =
      .next ({ s with
        fbuf := (s.msg i).counterPut s.fbuf (s.arg0.toNat % (s.msg i).counterModulus) } : State).complete :=
  withCounter_ok hp hi he hc _

theorem exec_cntnxt_counter :
    exec (.cntnxt i) s =
      .next ({ s with
        result0 := BitVec.ofNat 32 ((s.arg0.toNat + 1) % (s.msg i).counterModulus) } : State).complete :=
  withCounter_ok hp hi he hc _

end

/-- A counter value fits a result register. -/
theorem MsgDesc.toNat_counterValue (m : MsgDesc) (n : Nat) :
    (BitVec.ofNat 32 (n % m.counterModulus)).toNat = n % 2 ^ m.cntW.toNat := by
  have reduced : n % 2 ^ m.cntW.toNat < 2 ^ m.cntW.toNat := Nat.mod_lt _ (Nat.two_pow_pos _)
  have fits : 2 ^ m.cntW.toNat ≤ 2 ^ 32 := Nat.pow_le_pow_right (by decide) m.cntW.isLt.le
  rw [MsgDesc.counterModulus, BitVec.toNat_ofNat, Nat.mod_eq_of_lt (reduced.trans_le fits)]

/-- The counter of a valid message reads back what was written. -/
theorem MessageValid.counterGet_counterPut {s : State} {i : Nat} {m : MsgDesc} (hv : MessageValid s i m)
    (hc : m.cntEn = true) (f : Memory) (n : Nat) :
    m.counterGet (m.counterPut f (n % m.counterModulus)) = n % m.counterModulus :=
  fieldGet_fieldSet f (fieldWithin_mono (hv.counterWithin hc) hv.len.2) (Nat.mod_lt _ (Nat.two_pow_pos _))

/-- Settles O34: both results are what the rule of the command gives. -/
theorem counterIsReadAndStepped : Obligations.CounterIsReadAndStepped := fun _ _ hp hi he hc =>
  ⟨exec_cntrd_counter hp hi he hc,
    _, exec_cntnxt_counter hp hi he hc, MsgDesc.toNat_counterValue _ _, rfl⟩

/-- Settles O35: the counter is a field of the frame, and `CNTWR` keeps the descriptor that `CNTRD` reads it by. -/
theorem counterIsWrittenInPlace : Obligations.CounterIsWrittenInPlace := by
  intro s i hp hi he hc hv m
  have back := hv.counterGet_counterPut hc s.fbuf s.arg0.toNat
  refine ⟨_, exec_cntwr_counter hp hi he hc, back, frameBitGet_fieldSet_other _ _ _ _ _, rfl,
    _, exec_cntrd_counter (s := State.complete { s with fbuf := _ }) hp hi he hc, ?_⟩
  exact (congrArg (fun n => (BitVec.ofNat 32 n).toNat) back).trans (MsgDesc.toNat_counterValue _ _)

end Sys2Proof.Machine
end

section
/-! The rate limiter (42_limiter): what a tick computes and stores (O37), its bounds (O38), the latch of `PERM` (O39), and the
external reset of a channel (O40). -/

namespace Sys2Proof.Machine

/-! ### How the limiter commands end -/

theorem State.chan_setChan_same (s : State) {c : Nat} (hc : c < 2) (x : Channel) : (s.setChan c x).chan c = x := by
  rw [State.chan_setChan, if_pos ⟨rfl, hc⟩]

theorem State.chan_setChan_other (s : State) (c : Nat) (x : Channel) {k : Nat} (hk : k ≠ c) :
    (s.setChan c x).chan k = s.chan k := by
  rw [State.chan_setChan, if_neg fun e => hk e.1]

section
variable {s : State} {c : Nat} (hp : s.phase = .operate) (hc : c < 2) (he : (s.chan c).en = true)
include hp hc he

theorem exec_lstep_enabled :
    exec (.lstep c) s =
      .next ({ s.setChan c ((s.chan c).afterTick (s.tickOf (s.chan c))) with
        result0 := BitVec.ofInt 32 (s.tickOf (s.chan c)).applied
        result1 := (s.tickOf (s.chan c)).resultFlags } : State).complete :=
  withChannel_ok hp hc he _

/-- What an `LSTEP` leaves in its channel. -/
theorem chan_of_lstep {t : State} (h : exec (.lstep c) s = .next t) :
    t.chan c = (s.chan c).afterTick (s.tickOf (s.chan c)) := by
  rw [exec_lstep_enabled hp hc he] at h
  obtain rfl := next_inj h
  exact s.chan_setChan_same hc _

theorem exec_lrst_enabled : exec (.lrst c) s = .next (s.setChan c (s.chan c).cleared).complete :=
  withChannel_ok hp hc he _

end

/-- Settles O40: `LRST` stores the cleared channel and completes. -/
theorem channelResetClearsTheLimiterState : Obligations.ChannelResetClearsTheLimiterState := fun s c hp hc he =>
  ⟨_, exec_lrst_enabled hp hc he, s.chan_setChan_same hc _, fun _ hk => s.chan_setChan_other c _ hk, rfl⟩

/-! ### The transition in the terms of R202 to R207 -/

theorem overrideHolds_eq (last drv allow : Int) :
    overrideHolds last drv allow = decide ((last > 0 ∧ drv < -allow) ∨ (last < 0 ∧ drv > allow)) := by
  simp only [overrideHolds, Bool.decide_or, Bool.decide_and]

/-- R204 and R205 compare the magnitudes over the integers. -/
theorem Channel.stepWidth_eq (c : Channel) (d : Int) (ov : Bool) :
    c.stepWidth d ov =
      if ov then c.deltaDown.toInt + c.drvMult.toInt * c.drvFactor.toInt
      else if |c.desired d| < |c.last.toInt| then c.deltaDown.toInt else c.deltaUp.toInt := by
  simp only [Channel.stepWidth, Int.abs_eq_natAbs, Nat.cast_lt]

theorem Channel.nextAcc_eq (c : Channel) (fb applied : Int) :
    c.nextAcc fb applied =
      if |fb - applied| > c.errThresh.toInt then min ((c.errAcc.toNat : Int) + 1) (2 ^ 32 - 1) else 0 := by
  rw [Channel.nextAcc, Int.natCast_natAbs]

/-- `RESULT1` as a number: the five flags in bits 0 to 4 (R210). -/
theorem LimiterTick.resultFlags_toNat (t : LimiterTick) :
    t.resultFlags.toNat =
      t.temp.toNat + 2 * t.perm.toNat + 4 * t.ovr.toNat + 8 * t.dclamp.toNat + 16 * t.rclamp.toNat := by
  have flags : ∀ a b c d e : Bool,
      (flagBit a 0 ||| flagBit b 1 ||| flagBit c 2 ||| flagBit d 3 ||| flagBit e 4).toNat =
        a.toNat + 2 * b.toNat + 4 * c.toNat + 8 * d.toNat + 16 * e.toNat := by decide
  exact flags ..

/-- In OPERATE the invariant makes an enabled channel valid and bounds its `LAST` (R213). -/
theorem State.Inv.enabledChannel {s : State} {c : Nat} (h : s.Inv) (hp : s.phase = .operate) (hc : c < 2)
    (he : (s.chan c).en = true) :
    ChannelValid (s.chan c) ∧ ((s.chan c).last.toInt.natAbs : Int) ≤ (s.chan c).max.toInt := by
  have ok := State.limiterOk_iff.1 h.limiter c hc
  rw [State.locked_iff.2 hp, Channel.ok_iff_bounded he] at ok
  exact ⟨(h.catalogValid hp).channels c hc he, ok.2⟩

/-- The stored output is the applied output: it fits the register `LAST` (R200, R213). -/
theorem Channel.afterTick_last (s : State) {c : Channel} (hv : ChannelValid c)
    (hl : (c.last.toInt.natAbs : Int) ≤ c.max.toInt) :
    (c.afterTick (s.tickOf c)).last.toInt = (s.tickOf c).applied :=
  toInt_ofInt_of_bound (c.tick_applied_bound hv hl ..)

/-- The stored accumulator is the one computed: it fits the register `ERR_ACC` (R206). -/
theorem Channel.afterTick_errAcc (s : State) (c : Channel) :
    ((c.afterTick (s.tickOf c)).errAcc.toNat : Int) = (s.tickOf c).acc :=
  toNat_ofInt_of_range (c.tick_acc_range ..)

/-- Settles O37: the tick is the transition of R202 to R207, and its output and accumulator fit the registers they go to. -/
theorem limiterTickFollowsTheTransition : Obligations.LimiterTickFollowsTheTransition := by
  intro s c hs hp hc he ch d meas drv last dc ov step tgt w applied fb acc temp perm
  have ovr_eq : (s.tickOf ch).ovr = ov := overrideHolds_eq last drv ch.drvAllow.toInt
  have applied_eq : (s.tickOf ch).applied = applied := by
    change ch.applied d (s.tickOf ch).ovr = applied
    rw [ovr_eq, Channel.applied, ch.stepWidth_eq]
    rfl
  have acc_eq : (s.tickOf ch).acc = acc := by
    change ch.nextAcc fb (s.tickOf ch).applied = acc
    rw [applied_eq, ch.nextAcc_eq]
  have temp_eq : (s.tickOf ch).temp = temp := by
    change decide ((s.tickOf ch).acc > (ch.errMax.toNat : Int)) = temp
    rw [acc_eq]
  have rclamp_eq : (s.tickOf ch).rclamp = decide (applied ≠ tgt) := by
    change decide ((s.tickOf ch).applied ≠ ch.target d (s.tickOf ch).ovr) = _
    rw [applied_eq, ovr_eq]
    rfl
  obtain ⟨valid, bound⟩ := hs.enabledChannel hp hc he
  have last_eq := (Channel.afterTick_last s valid bound).trans applied_eq
  have errAcc_eq := (ch.afterTick_errAcc s).trans acc_eq
  have run := exec_lstep_enabled hp hc he
  have stored := chan_of_lstep hp hc he run
  refine ⟨_, run, ?_, ?_, ?_, fun _ hk => s.chan_setChan_other c _ hk, last_eq, ?_, rfl⟩
  · rw [stored, last_eq]
  · rw [stored, errAcc_eq]
  · rw [stored, ← temp_eq, ← ovr_eq]
    rfl
  · change (s.tickOf ch).resultFlags.toNat = _
    rw [LimiterTick.resultFlags_toNat, temp_eq, ovr_eq, rclamp_eq]
    rfl

/-! ### The bounds of a tick -/

/-- A step of width `w` moves the output by at most `w`. -/
theorem abs_clamped_step_le {w : Int} (hw : 0 ≤ w) (last target : Int) :
    |last + clamp (target - last) (-w) w - last| ≤ w := by
  rw [add_sub_cancel_left, abs_le]
  exact ⟨le_min (le_max_right ..) (by omega), min_le_right ..⟩

/-- A step of width `w` toward zero takes `w` off the magnitude, or all of it, and does not cross zero. -/
theorem clamped_step_toward_zero {w : Int} (hw : 0 ≤ w) (last : Int) :
    |last| - |last + clamp (0 - last) (-w) w| = min |last| w ∧
      (last + clamp (0 - last) (-w) w = 0 ∨ (last + clamp (0 - last) (-w) w).sign = last.sign) := by
  generalize happ : last + clamp (0 - last) (-w) w = applied
  unfold clamp at happ
  rcases lt_trichotomy last 0 with neg | rfl | pos
  · have stays : applied ≤ 0 := by omega
    rw [abs_of_neg neg, abs_of_nonpos stays, Int.sign_eq_neg_one_of_neg neg, Int.sign_eq_neg_one_iff_neg]
    omega
  · obtain rfl : applied = 0 := by omega
    simp [hw]
  · have stays : 0 ≤ applied := by omega
    rw [abs_of_pos pos, abs_of_nonneg stays, Int.sign_eq_one_of_pos pos, Int.sign_eq_one_iff_pos]
    omega

/-- R204, R205: the widths that a step can have. -/
theorem stepWidth_le_widest (c : Channel) (d : Int) (ov : Bool) :
    c.stepWidth d ov ≤
      max (max c.deltaUp.toInt c.deltaDown.toInt) (c.deltaDown.toInt + c.drvMult.toInt * c.drvFactor.toInt) := by
  unfold Channel.stepWidth
  split
  · exact le_max_right ..
  · refine le_max_of_le_left ?_
    split
    · exact le_max_right ..
    · exact le_max_left ..

/-- Settles O38: the step is clamped to its width, and under override its target is zero. -/
theorem limiterTickKeepsItsBounds : Obligations.LimiterTickKeepsItsBounds := by
  intro s t c hs hp hc he h ch last applied widened
  obtain ⟨valid, bound⟩ := hs.enabledChannel hp hc he
  have stored := chan_of_lstep hp hc he h
  have applied_eq : applied = ch.applied s.arg0.toInt (t.chan c).ovr := by
    change (t.chan c).last.toInt = _
    rw [stored]
    exact Channel.afterTick_last s valid bound
  have width := ch.stepWidth_nonneg valid s.arg0.toInt
  refine ⟨?_, ?_, fun hov => ?_⟩
  · rw [applied_eq]
    exact (abs_clamped_step_le (width _) ..).trans (stepWidth_le_widest ..)
  · rw [applied_eq, Int.abs_eq_natAbs]
    exact clamped_step_bound (width _) bound (ch.target_bound valid.max ..)
  · rw [applied_eq, hov]
    exact clamped_step_toward_zero (width true) last

/-! ### The latch of PERM (R208, R215) -/

/-- Setting a channel keeps `PERM` set everywhere if the new contents keep it set. -/
theorem State.perm_chan_setChan {s : State} {c k : Nat} {x : Channel} (hx : (s.chan c).perm = true → x.perm = true)
    (h : (s.chan k).perm = true) : ((s.setChan c x).chan k).perm = true := by
  rw [State.chan_setChan]
  split
  · rename_i hk
    exact hx (hk.1 ▸ h)
  · exact h

/-- No command but `LRST` clears `PERM`, and that of its own channel only. -/
theorem CommandResult.keeps_perm {s t : State} {i : Instr} {c : Nat} (h : CommandResult s i t)
    (hp : (s.chan c).perm = true) : (t.chan c).perm = true ∨ i = .lrst c := by
  cases h with
  | ticked => exact .inl (State.perm_chan_setChan (fun set => Bool.or_eq_true_iff.2 (.inl set)) hp)
  | @limiterCleared idx =>
    by_cases hc : c = idx
    · exact .inr (hc ▸ rfl)
    · refine .inl ?_
      change ((s.setChan idx _).chan c).perm = true
      rwa [s.chan_setChan_other idx _ hc]
  | _ => exact .inl hp

/-- `PERM` is read-only for the host (10_state R46). -/
theorem State.writeTarget_keeps_perm {s : State} {c : Nat} (hp : (s.chan c).perm = true) (x : Target) (v : Word) :
    ((s.writeTarget x v).chan c).perm = true := by
  cases x with
  | chan k w =>
    obtain ⟨-, -, -, keeps, -⟩ := (s.chan k).setWord_keeps w v
    exact State.perm_chan_setChan (fun set => keeps.trans set) hp
  | _ => exact hp

theorem State.hostWrite_keeps_perm {s : State} {c : Nat} (hp : (s.chan c).perm = true) (off : Nat) (v : Word) :
    ((s.hostWrite off v).chan c).perm = true := by
  cases hd : s.dropsWrite (target off)
  · rw [State.hostWrite_carried_out hd]
    exact State.writeTarget_keeps_perm hp _ v
  · rw [State.hostWrite_dropped hd]
    exact hp

/-- In a turn of the outside world only the reset input clears `PERM`. -/
theorem hostTurn_keeps_perm {s t : State} {c : Nat} (h : hostTurn s = .next t) (hp : (s.chan c).perm = true) :
    (t.chan c).perm = true ∨ ∃ rest, s.host = .setReset true :: rest := by
  rcases hostTurn_cases h with rfl | ⟨rest, reset, -⟩ | rfl | rfl | ⟨off, -, -, rfl⟩ | ⟨off, v, -, -, rfl⟩
  · exact .inl hp
  · exact .inr ⟨rest, reset⟩
  · exact .inl hp
  · exact .inl hp
  · rcases s.advanced.hostRead_cases off.toNat with hread | hread <;> rw [hread] <;> exact .inl hp
  · exact .inl (State.hostWrite_keeps_perm (s := s.advanced) hp off.toNat v)

/-- Settles O39: a tick takes the fault into `PERM`, and whatever else a step does keeps `PERM`, but for `LRST` and reset. -/
theorem permanentFaultIsLatched : Obligations.PermanentFaultIsLatched := by
  refine ⟨fun s t c hop hc he h => ?_, fun s t c hstep hp => ?_⟩
  · rw [chan_of_lstep hop hc he h]
    rfl
  · rcases step_cases hstep with ⟨w, i, hw, hwait, hd, he⟩ | ⟨w, e, -, -, -, he⟩ | ⟨moves, ht⟩
    · rcases (exec_result he).keeps_perm hp with kept | rfl
      · exact .inl kept
      · obtain ⟨word, -⟩ := encodingADecodedWordGivesItBack w _ hd
        exact .inr (.inl ⟨word ▸ hw, hwait⟩)
    · obtain rfl := next_inj he
      exact .inl hp
    · exact (hostTurn_keeps_perm ht hp).imp_right fun reset => .inr ⟨moves, reset⟩

end Sys2Proof.Machine
end

section
/-! The control commands (43_control): `NOP` (O13), the catalogs that `LOCK` accepts (O41), the failure it reports (O42), and
the message that `LOOKUP` finds (O43). -/

namespace Sys2Proof.Machine

/-! ### NOP -/

/-- Settles O13: one word has the fields of `NOP`, and the command only completes. -/
theorem nopWritesOnlyCompletionFields : Obligations.NopWritesOnlyCompletionFields := by
  refine ⟨fun w => ⟨fun h => (encodingADecodedWordGivesItBack w .nop h).1.symm, fun h => ?_⟩, fun s => rfl⟩
  subst h
  decide

/-! ### A valid catalog has no failure -/

/-- A valid message fails no check of the table of R232. -/
theorem MessageValid.not_failsCheck {s : State} {i : Nat} (hv : MessageValid s i (s.msg i)) (code slot : Nat) :
    ¬ FailsCheck s i code slot := by
  unfold FailsCheck
  split
  · rintro ⟨-, hlen⟩
    have := hv.len
    omega
  · rintro ⟨-, hrange⟩
    have := hv.signalRange
    omega
  · rintro ⟨hj, hlength, -⟩
    have : 1 ≤ (s.signalOf (s.msg i) slot).length.toNat ∧ (s.signalOf (s.msg i) slot).length.toNat ≤ 64 :=
      hv.signalLength slot hj
    omega
  · rintro ⟨hj, hscale, -⟩
    exact hv.scaleNonzero slot hj hscale
  · rintro ⟨hj, hden, -⟩
    exact hden.elim (hv.denNonzero slot hj).1 (hv.denNonzero slot hj).2
  · rintro ⟨hj, hwithin, -⟩
    exact absurd (hv.withinFrame slot hj) (by simp [hwithin])
  · rintro ⟨hb, ⟨a, ha, x, hxa, hxb⟩, -⟩
    exact hv.noOverlap a slot ha hb x hxa hxb
  · rintro ⟨-, halg, hpos⟩
    exact absurd (hv.csPos halg) (Nat.not_lt.2 hpos)
  · rintro ⟨-, halg, hrange⟩
    have := hv.csRange halg
    omega
  · rintro ⟨-, halg, hstart, hend⟩
    exact hv.csPosNotCovered halg ⟨by exact_mod_cast hstart, hend⟩
  · rintro ⟨-, halg, hcnt⟩
    exact absurd (hv.counterOnly halg) (by simp [hcnt])
  · rintro ⟨-, hcnt, hwidth⟩
    have := hv.counterWidth hcnt
    omega
  · rintro ⟨-, hcnt, hwithin⟩
    exact absurd (hv.counterWithin hcnt) (by simp [MsgDesc.counterWithin, hwithin])
  · rintro ⟨-, i', hi', he, hsame⟩
    exact hv.unique i' hi' he hsame
  · exact id

theorem messageFailure_none_of_valid {s : State} {i : Nat} (h : (s.msg i).en = true → MessageValid s i (s.msg i)) :
    messageFailure s i = none := by
  by_cases he : (s.msg i).en = true
  · exact (messageFailure_none_iff he).2 fun code _ => (checkMessage_spec s i code).2 ((h he).not_failsCheck code)
  · rw [messageFailure, if_neg he]

theorem ChannelValid.limits_nonneg {c : Channel} (hv : ChannelValid c) : ∀ w ∈ c.limits, 0 ≤ w.toInt := by
  obtain ⟨h0, h1, h2, h3, h4, h5, h6⟩ := hv
  simp [Channel.limits, *]

theorem channelFailure_none_of_valid {s : State} {c : Nat} (h : (s.chan c).en = true → ChannelValid (s.chan c)) :
    channelFailure s c = none := by
  by_cases he : (s.chan c).en = true
  · exact (channelFailure_none_iff he).2 (h he).limits_nonneg
  · rw [channelFailure, if_neg he]

/-- `LOCK` finds no failure exactly in the catalogs that R232 calls valid. -/
theorem lockFailure_none_iff_catalogValid {s : State} : lockFailure s = none ↔ CatalogValid s := by
  refine ⟨catalogValid_of_lockFailure, fun hv => lockFailure_none_iff.2 ⟨fun i hi => ?_, fun c hc => ?_⟩⟩
  · exact messageFailure_none_of_valid (hv.messages i hi)
  · exact channelFailure_none_of_valid (hv.channels c hc)

/-! ### How LOCK ends -/

theorem exec_lock_accepts {s : State} (hp : s.phase = .config) (hl : lockFailure s = none) :
    exec .lock s = .next ({ s with phase := .operate } : State).complete := by
  rw [exec, execLock, hp, hl]

theorem exec_lock_refuses {s : State} {e : ErrInfo} (hp : s.phase = .config) (hl : lockFailure s = some e) :
    exec .lock s = .next (s.raise .badDescriptor e) := by
  rw [exec, execLock, hp, hl]

/-- Settles O41: `LOCK` completes exactly if it finds no failure, and then the catalog is valid. -/
theorem lockAcceptsExactlyTheValidCatalogs : Obligations.LockAcceptsExactlyTheValidCatalogs := by
  refine fun s hp => ⟨fun hv => exec_lock_accepts hp (lockFailure_none_iff_catalogValid.2 hv), fun hv => ?_⟩
  obtain ⟨e, he⟩ := Option.ne_none_iff_exists'.1 (mt lockFailure_none_iff_catalogValid.1 hv)
  exact ⟨e.pack, exec_lock_refuses hp he⟩

/-! ### The first failure -/

/-- A search through a range of numbers answers at the first number that has an answer. -/
theorem findSome?_range'_of_first {α : Type} {f : Nat → Option α} {first n i : Nat} {b : α} (hfirst : first ≤ i)
    (hi : i < first + n) (hf : f i = some b) (hlow : ∀ j, first ≤ j → j < i → f j = none) :
    (List.range' first n).findSome? f = some b := by
  induction n generalizing first with
  | zero => omega
  | succ n ih =>
    rw [List.range'_succ, List.findSome?_cons]
    rcases hfirst.eq_or_lt with rfl | hlt
    · rw [hf]
    · rw [hlow first le_rfl hlt]
      exact ih hlt (by omega) fun j hj => hlow j (by omega)

/-- `ERR_INFO` as a number: `KIND << 24 OR CHECK << 16 OR SLOT << 8 OR INDEX` (60_exceptions R252). -/
theorem ErrInfo.pack_eq (e : ErrInfo) : e.pack =
    BitVec.ofNat 32 (16777216 * e.kind.toNat + 65536 * e.check.toNat + 256 * e.slot.toNat + e.index.toNat) := by
  have disjoint : e.kind.toNat <<< 24 ||| (e.check.toNat <<< 16 ||| (e.slot.toNat <<< 8 ||| e.index.toNat)) =
      e.kind.toNat <<< 24 + (e.check.toNat <<< 16 + (e.slot.toNat <<< 8 + e.index.toNat)) := by
    rw [← Nat.shiftLeft_add_eq_or_of_lt (i := 8) (by omega), ← Nat.shiftLeft_add_eq_or_of_lt (i := 16) (by omega),
      ← Nat.shiftLeft_add_eq_or_of_lt (i := 24) (by omega)]
  apply BitVec.eq_of_toNat_eq
  simp (disch := omega) only [ErrInfo.pack, BitVec.toNat_or, BitVec.toNat_shiftLeft, BitVec.toNat_setWidth,
    BitVec.toNat_ofNat, Nat.shiftLeft_eq, Nat.mod_eq_of_lt, Nat.or_assoc] at disjoint ⊢
  omega

theorem messageFailure_eq_some {s : State} {i code slot : Nat} (he : (s.msg i).en = true)
    (hlow : ∀ k < code, ∀ j, ¬ FailsCheck s i k j) (hf : FailsCheck s i code slot) :
    messageFailure s i = some ⟨BitVec.ofNat 8 i, BitVec.ofNat 8 slot, BitVec.ofNat 8 code, 1⟩ := by
  obtain ⟨hcode, hcode', -⟩ := hf.bounds
  rw [messageFailure, if_pos he]
  refine findSome?_range'_of_first hcode (by omega) ?_ fun k _ hk => ?_
  · rw [(checkMessage_spec s i code).1 slot hf, Option.map_some]
  · rw [(checkMessage_spec s i k).2 (hlow k hk), Option.map_none]

theorem channelFailure_eq_some {s : State} {c w : Nat} {x : Word} (he : (s.chan c).en = true)
    (hx : (s.chan c).limits[w]? = some x) (hneg : x.toInt < 0)
    (hlow : ∀ v < w, ∀ y, (s.chan c).limits[v]? = some y → 0 ≤ y.toInt) :
    channelFailure s c = some ⟨BitVec.ofNat 8 c, BitVec.ofNat 8 w, 0x01, 2⟩ := by
  obtain ⟨hw, rfl⟩ := List.getElem?_eq_some_iff.1 hx
  have first : (s.chan c).limits.findIdx? (fun y => decide (y.toInt < 0)) = some w := by
    refine List.findIdx?_eq_some_iff_getElem.2 ⟨hw, decide_eq_true hneg, fun v hv => ?_⟩
    simpa using hlow v hv _ (List.getElem?_eq_getElem (hv.trans hw))
  rw [channelFailure, if_pos he, first, Option.map_some]

/-- `LOCK` reports the failure of the first message that has one. -/
theorem lockFailure_of_message {s : State} {i : Nat} {e : ErrInfo} (hi : i < 64) (hf : messageFailure s i = some e)
    (hlow : ∀ i' < i, messageFailure s i' = none) : lockFailure s = some e := by
  have found : (List.range Config.nmsg).findSome? (messageFailure s) = some e := by
    rw [List.range_eq_range']
    exact findSome?_range'_of_first (Nat.zero_le i) (by simpa [Config.nmsg] using hi) hf fun j _ => hlow j
  rw [lockFailure, found]

/-- `LOCK` reports the failure of the first channel that has one, if no message has one. -/
theorem lockFailure_of_channel {s : State} {c : Nat} {e : ErrInfo} (hm : ∀ i < 64, messageFailure s i = none)
    (hc : c < 2) (hf : channelFailure s c = some e) (hlow : ∀ c' < c, channelFailure s c' = none) :
    lockFailure s = some e := by
  have messages : (List.range Config.nmsg).findSome? (messageFailure s) = none :=
    List.findSome?_eq_none_iff.2 fun i hi => hm i (List.mem_range.1 hi)
  rw [lockFailure, messages, List.range_eq_range']
  exact findSome?_range'_of_first (Nat.zero_le c) (by simpa [Config.nchan] using hc) hf fun j _ => hlow j

/-- Settles O42: what is valid has no failure, so the search of `LOCK` stops at the failure named. -/
theorem lockReportsTheFirstFailure : Obligations.LockReportsTheFirstFailure := by
  refine ⟨fun s i code slot hp hi he hvalid hlow hf => ?_, fun s c w x hp hc he hvalid hvalid' hx hneg hlow => ?_⟩
  · obtain ⟨-, hcode, hslot⟩ := hf.bounds
    have failure := lockFailure_of_message hi (messageFailure_eq_some he hlow hf)
      fun i' hi' => messageFailure_none_of_valid (hvalid i' hi')
    rw [exec_lock_refuses hp failure, State.raise, ErrInfo.pack_eq]
    simp (disch := omega) [Nat.mod_eq_of_lt]
  · have hw : w < 7 := (List.getElem?_eq_some_iff.1 hx).1
    have failure := lockFailure_of_channel (fun i hi => messageFailure_none_of_valid (hvalid i hi)) hc
      (channelFailure_eq_some he hx hneg hlow) fun c' hc' => channelFailure_none_of_valid (hvalid' c' hc')
    rw [exec_lock_refuses hp failure, State.raise, ErrInfo.pack_eq]
    simp (disch := omega) [Nat.mod_eq_of_lt]

/-! ### LOOKUP -/

theorem MsgDesc.answersTo_iff {m : MsgDesc} {bus : Byte} {addr : Word} :
    m.answersTo bus addr = true ↔ m.en = true ∧ m.bus = bus ∧ m.addr = addr := by
  simp [MsgDesc.answersTo, and_assoc]

section
variable {s : State} (hp : s.phase = .operate)
include hp

theorem exec_lookup_found {i : Nat} (hi : i < 64) (ha : (s.msg i).answersTo (s.arg0.extractLsb' 0 8) s.arg1 = true)
    (hlow : ∀ j < i, ¬ (s.msg j).answersTo (s.arg0.extractLsb' 0 8) s.arg1 = true) :
    exec .lookup s = .next ({ s with result0 := BitVec.ofNat 32 i } : State).complete := by
  have found : (List.range Config.nmsg).find? (fun i => (s.msg i).answersTo (s.arg0.extractLsb' 0 8) s.arg1) = some i :=
    List.find?_range_eq_some.2 ⟨ha, List.mem_range.2 hi, fun j hj => by simpa using hlow j hj⟩
  rw [exec, execLookup, needOperate, hp, found]

theorem exec_lookup_unknown (hno : ∀ i < 64, ¬ (s.msg i).answersTo (s.arg0.extractLsb' 0 8) s.arg1 = true) :
    exec .lookup s = failCommand .unknownAddress 0 s := by
  have absent : (List.range Config.nmsg).find? (fun i => (s.msg i).answersTo (s.arg0.extractLsb' 0 8) s.arg1) = none :=
    List.find?_range_eq_none.2 fun i hi => by simpa using hno i hi
  rw [exec, execLookup, needOperate, hp, absent]

end

/-- Settles O43: in OPERATE no two enabled messages share a bus and an address, so the first message found is the one. -/
theorem lookupFindsTheMessage : Obligations.LookupFindsTheMessage := by
  refine fun s hs hp => ⟨fun i hi he hbus haddr => ?_, fun hno => ?_⟩
  · refine exec_lookup_found hp hi (MsgDesc.answersTo_iff.2 ⟨he, hbus, haddr⟩) fun j hj ha => ?_
    obtain ⟨hej, hbusj, haddrj⟩ := MsgDesc.answersTo_iff.1 ha
    exact ((hs.catalogValid hp).messages i hi he).unique j hj hej ⟨hbusj.trans hbus.symm, haddrj.trans haddr.symm⟩
  · refine exec_lookup_unknown hp fun i hi ha => ?_
    obtain ⟨he, hsame⟩ := MsgDesc.answersTo_iff.1 ha
    exact hno i hi he hsame

end Sys2Proof.Machine
end

section
/-! The exceptions (60_exceptions): how a command that fails ends (O8) and one that does not (O9), the checks that commands
share (O10, O11) and a message command's own (O25), what changes the phase (O44), and the interrupt line (O54). -/

namespace Sys2Proof.Machine

/-! ### The common checks (60_exceptions R254) -/

/-- What holds of `NOT_LOCKED` and of the command's own rule holds of a command that needs OPERATE. -/
theorem needOperate_ends {P : Result → Prop} {idx : Nat} {s : State} {body : Result}
    (notLocked : P (failCommand .notLocked idx s)) (own : P body) : P (needOperate idx s body) := by
  unfold needOperate
  split
  · exact notLocked
  · exact own

/-- What holds of the errors of the common checks and of a message command's own rule holds of the command. -/
theorem withMessage_ends {P : Result → Prop} {idx : Nat} {s : State} {body : MsgDesc → Result}
    (notLocked : P (failCommand .notLocked idx s)) (badIndex : P (failCommand .badIndex idx s))
    (own : P (body (s.msg idx))) : P (withMessage idx s body) := by
  refine needOperate_ends notLocked ?_
  unfold messageOperand
  split_ifs
  · exact own
  · exact badIndex

/-- What holds of the errors of the common checks and of a channel command's own rule holds of the command. -/
theorem withChannel_ends {P : Result → Prop} {idx : Nat} {s : State} {body : Channel → Result}
    (notLocked : P (failCommand .notLocked idx s)) (badIndex : P (failCommand .badIndex idx s))
    (own : P (body (s.chan idx))) : P (withChannel idx s body) := by
  refine needOperate_ends notLocked ?_
  unfold channelOperand
  split_ifs
  · exact own
  · exact badIndex

theorem needOperate_config {s : State} (hp : s.phase = .config) (idx : Nat) (body : Result) :
    needOperate idx s body = failCommand .notLocked idx s := by
  rw [needOperate, hp]

theorem needOperate_operate {s : State} (hp : s.phase = .operate) (idx : Nat) (body : Result) :
    needOperate idx s body = body := by
  rw [needOperate, hp]

/-- An index out of range, or of a descriptor that is not enabled, passes no index check. -/
theorem indexCheck_fails {idx n : Nat} {en : Bool} (h : n ≤ idx ∨ en = false) : ¬ (idx < n ∧ en = true) := by
  rcases h with hle | rfl
  · exact fun ok => absurd ok.1 (Nat.not_lt.2 hle)
  · simp

theorem messageOperand_none {s : State} {idx : Nat} (h : 64 ≤ idx ∨ (s.msg idx).en = false) :
    messageOperand idx s = none := if_neg (indexCheck_fails h)

theorem channelOperand_none {s : State} {idx : Nat} (h : 2 ≤ idx ∨ (s.chan idx).en = false) :
    channelOperand idx s = none := if_neg (indexCheck_fails h)

theorem withMessage_badIndex {s : State} {idx : Nat} (hp : s.phase = .operate)
    (h : 64 ≤ idx ∨ (s.msg idx).en = false) (body : MsgDesc → Result) :
    withMessage idx s body = failCommand .badIndex idx s := by
  rw [withMessage, needOperate_operate hp, messageOperand_none h]

theorem withChannel_badIndex {s : State} {idx : Nat} (hp : s.phase = .operate)
    (h : 2 ≤ idx ∨ (s.chan idx).en = false) (body : Channel → Result) :
    withChannel idx s body = failCommand .badIndex idx s := by
  rw [withChannel, needOperate_operate hp, channelOperand_none h]

/-- Every command but `NOP`, `VCLR` and `LOCK` begins with the phase check. -/
theorem exec_eq_needOperate {i : Instr} (hnop : i ≠ .nop) (hvclr : i ≠ .vclr) (hlock : i ≠ .lock) (s : State) :
    ∃ body, exec i s = needOperate (operandIndex i) s body := by
  cases i with
  | nop | vclr | lock => contradiction
  | _ => exact ⟨_, rfl⟩

/-- A message command goes through the common checks on its message (30_encoding R92). -/
theorem exec_eq_withMessage {i : Instr} {idx : Nat} (h : messageIndex i = some idx) (s : State) :
    ∃ body, exec i s = withMessage idx s body := by
  cases i with
  | nop | lookup | vclr | lock | lstep | lrst => cases h
  | _ =>
    obtain rfl := Option.some.inj h
    exact ⟨_, rfl⟩

/-- A channel command goes through the common checks on its channel (30_encoding R92). -/
theorem exec_eq_withChannel {i : Instr} {idx : Nat} (h : channelIndex i = some idx) (s : State) :
    ∃ body, exec i s = withChannel idx s body := by
  cases i with
  | lstep | lrst =>
    obtain rfl := Option.some.inj h
    exact ⟨_, rfl⟩
  | _ => cases h

theorem ErrInfo.pack_ofCommand (idx : Nat) : (ErrInfo.ofCommand idx).pack = commandErrInfo idx := by
  apply BitVec.eq_of_toNat_eq
  simp [ErrInfo.pack, ErrInfo.ofCommand, commandErrInfo]

/-- An error of the command itself, with `ERR_INFO` as R254 gives it. -/
theorem failCommand_eq (c : ErrCode) (idx : Nat) (s : State) :
    failCommand c idx s =
      .next { s with err := c, errInfo := commandErrInfo idx, done := true, pending := none } := by
  rw [failCommand, State.raise, ErrInfo.pack_ofCommand]

theorem exec_lock_operate {s : State} (hp : s.phase = .operate) : exec .lock s = failCommand .alreadyLocked 0 s := by
  rw [exec, execLock, hp]

/-- Settles O10: in CONFIG the phase check fails before a command's own rule, and `LOCK` looks at the phase first. -/
theorem commandsNeedTheirPhase : Obligations.CommandsNeedTheirPhase := by
  refine ⟨fun i s hnop hvclr hlock hp => ?_, fun s hp => ?_⟩
  · obtain ⟨body, h⟩ := exec_eq_needOperate hnop hvclr hlock s
    rw [h, needOperate_config hp, failCommand_eq]
  · rw [exec_lock_operate hp, failCommand_eq]
    rfl

/-- Settles O11: no operand is found, so the index check fails before the command's own rule. -/
theorem badIndexIsReported : Obligations.BadIndexIsReported := by
  refine ⟨fun i idx s hi hp hbad => ?_, fun i idx s hi hp hbad => ?_⟩
  · obtain ⟨body, h⟩ := exec_eq_withMessage hi s
    rw [h, withMessage_badIndex hp hbad, failCommand_eq]
  · obtain ⟨body, h⟩ := exec_eq_withChannel hi s
    rw [h, withChannel_badIndex hp hbad, failCommand_eq]

/-! ### How a command ends (R252, R253) -/

/-- The ends a command can come to, with the code and the info of its error: the completion without error, an error of the
command itself, the slot that `ENCODE` refuses, and the failure that `LOCK` reports. -/
inductive CommandEnding (s : State) : Instr → Result → Prop where
  | completed (i : Instr) (u : State) : CommandEnding s i (.next u.complete)
  | failed (i : Instr) (c : ErrCode) (hv : c ≠ .badValue) (hd : c ≠ .badDescriptor) :
      CommandEnding s i (failCommand c (operandIndex i) s)
  | refusedSlot {idx j : Nat} (clr : Bool) (hj : badValueSlot (s.msg idx) s = some j) :
      CommandEnding s (.encode idx clr)
        (.next (s.raise .badValue ⟨BitVec.ofNat 8 idx, BitVec.ofNat 8 j, 0, 0⟩))
  | refusedCatalog {e : ErrInfo} (he : lockFailure s = some e) :
      CommandEnding s .lock (.next (s.raise .badDescriptor e))

/-- The ending of a message command, given that of its own rule. -/
theorem CommandEnding.withMessage {s : State} {i : Instr} {body : MsgDesc → Result}
    (own : CommandEnding s i (body (s.msg (operandIndex i)))) :
    CommandEnding s i (withMessage (operandIndex i) s body) :=
  withMessage_ends (.failed i .notLocked nofun nofun) (.failed i .badIndex nofun nofun) own

/-- The ending of a channel command, given that of its own rule. -/
theorem CommandEnding.withChannel {s : State} {i : Instr} {body : Channel → Result}
    (own : CommandEnding s i (body (s.chan (operandIndex i)))) :
    CommandEnding s i (withChannel (operandIndex i) s body) :=
  withChannel_ends (.failed i .notLocked nofun nofun) (.failed i .badIndex nofun nofun) own

/-- A counter command completes or fails one of its checks. -/
theorem CommandEnding.withCounter (s : State) (i : Instr) (body : MsgDesc → State) :
    CommandEnding s i (withCounter (operandIndex i) s body) := by
  refine .withMessage ?_
  split
  · exact .completed i _
  · exact .failed i .noCounter nofun nofun

/-- What every command comes to. -/
theorem exec_ending (i : Instr) (s : State) : CommandEnding s i (exec i s) := by
  cases i with
  | nop => exact .completed .nop s
  | encode idx clr =>
    refine .withMessage (i := .encode idx clr) ?_
    split
    · exact .refusedSlot clr ‹_›
    · exact .completed _ _
  | decode idx =>
    refine .withMessage (i := .decode idx) ?_
    split
    · exact .completed _ _
    · exact .failed (.decode idx) .lengthMismatch nofun nofun
  | cscomp idx =>
    refine .withMessage (i := .cscomp idx) ?_
    split
    · exact .failed (.cscomp idx) .noChecksum nofun nofun
    · exact .completed _ _
  | csins idx =>
    refine .withMessage (i := .csins idx) ?_
    split
    · exact .failed (.csins idx) .noChecksum nofun nofun
    · exact .completed _ _
  | csval idx =>
    refine .withMessage (i := .csval idx) ?_
    split
    · exact .failed (.csval idx) .noChecksum nofun nofun
    · split
      · exact .completed _ _
      · exact .failed (.csval idx) .lengthMismatch nofun nofun
  | cntrd idx => exact .withCounter s (.cntrd idx) _
  | cntwr idx => exact .withCounter s (.cntwr idx) _
  | cntnxt idx => exact .withCounter s (.cntnxt idx) _
  | lookup =>
    refine needOperate_ends (.failed .lookup .notLocked nofun nofun) ?_
    split
    · exact .completed _ _
    · exact .failed .lookup .unknownAddress nofun nofun
  | vclr => exact .completed _ _
  | lock =>
    rw [exec, execLock]
    split
    · exact .failed .lock .alreadyLocked nofun nofun
    · split
      · exact .refusedCatalog ‹_›
      · exact .completed _ _
  | lstep idx => exact .withChannel (i := .lstep idx) (.completed _ _)
  | lrst idx => exact .withChannel (i := .lrst idx) (.completed _ _)

/-- The slot that `ENCODE` reports is one that it refuses, and its number fits the field `SLOT`. -/
theorem badValueSlot_some {m : MsgDesc} {s : State} {j : Nat} (h : badValueSlot m s = some j) :
    j < 256 ∧ (s.slot j).refusedByEncode := by
  rw [badValueSlot, List.find?_range_eq_some] at h
  obtain ⟨hbad, hj, -⟩ := h
  exact ⟨(List.mem_range.1 hj).trans m.sigCount.isLt, Slot.badValue_iff.1 hbad⟩

theorem messageFailure_kind {s : State} {i : Nat} {e : ErrInfo} (h : messageFailure s i = some e) : e.kind = 1 := by
  unfold messageFailure at h
  split at h
  · obtain ⟨code, -, hcode⟩ := List.exists_of_findSome?_eq_some h
    obtain ⟨slot, -, rfl⟩ := Option.map_eq_some_iff.1 hcode
    rfl
  · cases h

theorem channelFailure_kind {s : State} {c : Nat} {e : ErrInfo} (h : channelFailure s c = some e) : e.kind = 2 := by
  unfold channelFailure at h
  split at h
  · obtain ⟨w, -, rfl⟩ := Option.map_eq_some_iff.1 h
    rfl
  · cases h

/-- `KIND` says whether a message or a channel fails (10_state R28). -/
theorem lockFailure_kind {s : State} {e : ErrInfo} (h : lockFailure s = some e) : e.kind = 1 ∨ e.kind = 2 := by
  unfold lockFailure at h
  split at h
  · rename_i hm
    obtain rfl := Option.some.inj h
    obtain ⟨i, -, hi⟩ := List.exists_of_findSome?_eq_some hm
    exact .inl (messageFailure_kind hi)
  · obtain ⟨c, -, hc⟩ := List.exists_of_findSome?_eq_some h
    exact .inr (channelFailure_kind hc)

/-- Settles O8: each way to fail raises an error, and `ERR_INFO` is that of the command but for the two errors that name a
slot. -/
theorem failedCommandWritesOnlyErrorFields : Obligations.FailedCommandWritesOnlyErrorFields := by
  intro i s t h herr
  have ending := exec_ending i s
  rw [h] at ending
  cases ending with
  | completed => exact absurd rfl herr
  | failed _ c hv hd =>
    exact ⟨.ofCommand (operandIndex i), rfl, fun _ => ⟨rfl, rfl, BitVec.toNat_ofNat ..⟩, fun _ _ => rfl,
      fun hc => absurd hc hv, fun hc => absurd hc hd⟩
  | @refusedSlot idx j clr hj =>
    obtain ⟨small, refused⟩ := badValueSlot_some hj
    have slot : (BitVec.ofNat 8 j).toNat = j := by rw [BitVec.toNat_ofNat, Nat.mod_eq_of_lt small]
    exact ⟨⟨BitVec.ofNat 8 idx, BitVec.ofNat 8 j, 0, 0⟩, rfl, fun _ => ⟨rfl, rfl, BitVec.toNat_ofNat ..⟩,
      fun _ hne => absurd rfl hne, fun _ => slot.symm ▸ refused, nofun⟩
  | @refusedCatalog e he =>
    exact ⟨e, rfl, fun hne => absurd rfl hne, fun hne => absurd rfl hne, nofun, fun _ => lockFailure_kind he⟩

/-- Settles O9: a command that raises no error completes. -/
theorem successfulCommandWritesCompletionFields : Obligations.SuccessfulCommandWritesCompletionFields := by
  intro i s t h herr
  rcases exec_cases i s with ⟨c, e, hc, hraise⟩ | ⟨u, hdone, -⟩
  · obtain rfl := next_inj (h.symm.trans hraise)
    exact absurd herr hc
  · obtain rfl := next_inj (h.symm.trans hdone)
    exact ⟨rfl, rfl, rfl⟩

/-! ### The checks of a message command (R254) -/

theorem MsgDesc.computed_none {m : MsgDesc} (ha : m.csAlg = .none ∨ m.csAlg = .counterOnly) (f : Memory) :
    m.computed f = none := by
  rcases ha with ha | ha <;> rw [MsgDesc.computed, ha]

theorem MsgDesc.verdict_none_iff {m : MsgDesc} {f : Memory} : m.verdict f = none ↔ m.csAlg = .none := by
  rw [MsgDesc.verdict]
  cases m.csAlg <;> simp

section
variable {s : State} {i : Nat} (hp : s.phase = .operate) (hi : i < 64) (he : (s.msg i).en = true)
include hp hi he

theorem exec_decode_mismatch (hl : s.flen ≠ (s.msg i).len) :
    exec (.decode i) s = failCommand .lengthMismatch i s := by
  rw [exec, execDecode, withMessage_ok hp hi he, if_neg hl]

theorem exec_csval_mismatch (hl : s.flen ≠ (s.msg i).len) (ha : (s.msg i).csAlg ≠ .none) :
    exec (.csval i) s = failCommand .lengthMismatch i s := by
  obtain ⟨v, hv⟩ := Option.ne_none_iff_exists'.1 (mt (MsgDesc.verdict_none_iff (f := s.fbuf)).1 ha)
  rw [exec, execCsval, withMessage_ok hp hi he, hv]
  exact if_neg hl

theorem exec_csval_noChecksum (ha : (s.msg i).csAlg = .none) :
    exec (.csval i) s = failCommand .noChecksum i s := by
  rw [exec, execCsval, withMessage_ok hp hi he, MsgDesc.verdict_none_iff.2 ha]

theorem exec_cscomp_noChecksum (ha : (s.msg i).csAlg = .none ∨ (s.msg i).csAlg = .counterOnly) :
    exec (.cscomp i) s = failCommand .noChecksum i s := by
  rw [exec, execCscomp, withMessage_ok hp hi he, MsgDesc.computed_none ha]

theorem exec_csins_noChecksum (ha : (s.msg i).csAlg = .none ∨ (s.msg i).csAlg = .counterOnly) :
    exec (.csins i) s = failCommand .noChecksum i s := by
  rw [exec, execCsins, withMessage_ok hp hi he, MsgDesc.computed_none ha]

theorem withCounter_noCounter (hc : (s.msg i).cntEn = false) (body : MsgDesc → State) :
    withCounter i s body = failCommand .noCounter i s := by
  rw [withCounter, withMessage_ok hp hi he, hc]
  rfl

end

/-- Settles O25: past the common checks each command comes to the check of its own that fails. -/
theorem messageErrorsAreReported : Obligations.MessageErrorsAreReported := by
  intro s i hp hi he
  simp only [← failCommand_eq]
  exact ⟨exec_decode_mismatch hp hi he, exec_csval_mismatch hp hi he, exec_csval_noChecksum hp hi he,
    fun ha => ⟨exec_cscomp_noChecksum hp hi he ha, exec_csins_noChecksum hp hi he ha⟩,
    fun hc => ⟨withCounter_noCounter hp hi he hc _, withCounter_noCounter hp hi he hc _,
      withCounter_noCounter hp hi he hc _⟩⟩

/-! ### What changes the phase (R261) -/

/-- `LOCK` without error found CONFIG and a catalog without failure. -/
theorem exec_lock_succeeds {s t : State} (h : exec .lock s = .next t) (herr : t.err = .none) :
    s.phase = .config ∧ t.phase = .operate := by
  cases hp : s.phase with
  | operate =>
    obtain rfl := next_inj ((exec_lock_operate hp).symm.trans h)
    cases herr
  | config =>
    cases hl : lockFailure s with
    | none =>
      obtain rfl := next_inj ((exec_lock_accepts hp hl).symm.trans h)
      exact ⟨rfl, rfl⟩
    | some e =>
      obtain rfl := next_inj ((exec_lock_refuses hp hl).symm.trans h)
      cases herr

/-- No command changes the phase but `LOCK` without error. -/
theorem CommandResult.phase_changed {s t : State} {i : Instr} (h : CommandResult s i t) (hne : t.phase ≠ s.phase) :
    i = .lock ∧ s.phase = .config ∧ t.phase = .operate ∧ t.err = .none := by
  cases h with
  | locked hp => exact ⟨rfl, hp, rfl, rfl⟩
  | _ => exact absurd rfl hne

@[simp] theorem State.hostRead_phase (s : State) (off : Nat) : (s.hostRead off).phase = s.phase := by
  rcases s.hostRead_cases off with h | h <;> rw [h]

@[simp] theorem State.hostWrite_phase (s : State) (off : Nat) (v : Word) : (s.hostWrite off v).phase = s.phase := by
  cases hd : s.dropsWrite (target off)
  · rw [State.hostWrite_carried_out hd]
    exact s.writeTarget_phase _ v
  · rw [State.hostWrite_dropped hd]

/-- In a turn of the outside world only the reset input changes the phase. -/
theorem hostTurn_phase_changed {s t : State} (h : hostTurn s = .next t) (hne : t.phase ≠ s.phase) :
    t.phase = .config ∧ ∃ rest, s.host = .setReset true :: rest := by
  rcases hostTurn_cases h with rfl | ⟨rest, reset, rfl⟩ | rfl | rfl | ⟨off, -, -, rfl⟩ | ⟨off, v, -, -, rfl⟩
  · exact absurd rfl hne
  · exact ⟨rfl, rest, reset⟩
  · exact absurd rfl hne
  · exact absurd rfl hne
  · exact absurd (s.advanced.hostRead_phase _) hne
  · exact absurd (s.advanced.hostWrite_phase _ v) hne

/-- Settles O44: of the commands only `LOCK` changes the phase, of the events only reset. -/
theorem onlyLockAndResetChangeThePhase : Obligations.OnlyLockAndResetChangeThePhase := by
  refine ⟨fun s => rfl, fun s t => exec_lock_succeeds, fun s t hstep hne => ?_⟩
  rcases step_cases hstep with ⟨w, i, hw, hwait, hd, he⟩ | ⟨w, e, -, -, -, he⟩ | ⟨moves, ht⟩
  · obtain ⟨rfl, config, operate, noError⟩ := (exec_result he).phase_changed hne
    obtain ⟨word, -⟩ := encodingADecodedWordGivesItBack w _ hd
    exact .inl ⟨config, operate, hw.trans (congrArg some word.symm), hwait, noError⟩
  · obtain rfl := next_inj he
    exact absurd rfl hne
  · obtain ⟨config, reset⟩ := hostTurn_phase_changed ht hne
    exact .inr ⟨config, moves, reset⟩

/-! ### The interrupt line (R257) -/

/-- A command sets `DONE`, empties the latch and leaves `IE`. -/
theorem CommandResult.completes {s t : State} {i : Instr} (h : CommandResult s i t) :
    t.done = true ∧ t.pending = none ∧ t.ie = s.ie := by
  cases h <;> exact ⟨rfl, rfl, rfl⟩

/-- A host write sets `DONE` at no time: an accepted command and a write of `STATUS` can only clear it. -/
theorem State.done_of_writeTarget {s : State} {x : Target} {v : Word} (h : (s.writeTarget x v).done = true) :
    s.done = true := by
  cases x with
  | cmd => cases h
  | status => exact (Bool.and_eq_true_iff.1 h).1
  | _ => exact h

theorem State.done_of_hostWrite {s : State} {off : Nat} {v : Word} (h : (s.hostWrite off v).done = true) :
    s.done = true := by
  cases hd : s.dropsWrite (target off)
  · rw [State.hostWrite_carried_out hd] at h
    exact State.done_of_writeTarget h
  · rwa [State.hostWrite_dropped hd] at h

@[simp] theorem State.hostRead_done (s : State) (off : Nat) : (s.hostRead off).done = s.done := by
  rcases s.hostRead_cases off with h | h <;> rw [h]

/-- No event of the outside world sets `DONE`. -/
theorem done_of_hostTurn {s t : State} (h : hostTurn s = .next t) (hdone : t.done = true) : s.done = true := by
  rcases hostTurn_cases h with rfl | ⟨rest, -, rfl⟩ | rfl | rfl | ⟨off, -, -, rfl⟩ | ⟨off, v, -, -, rfl⟩
  · exact hdone
  · cases hdone
  · exact hdone
  · exact hdone
  · exact (s.advanced.hostRead_done _).symm.trans hdone
  · exact State.done_of_hostWrite (s := s.advanced) hdone

/-- A step completes the latched command, with or without error, or is the outside world's turn. -/
theorem step_completes_or_hostTurn {s t : State} (h : step s = .next t) :
    (s.pending.isSome ∧ t.done = true ∧ t.pending = none ∧ t.ie = s.ie) ∨ (s.hostMoves ∧ hostTurn s = .next t) := by
  rcases step_cases h with ⟨w, i, hw, -, -, he⟩ | ⟨w, e, hw, -, -, he⟩ | turn
  · exact .inl ⟨by simp [hw], (exec_result he).completes⟩
  · obtain rfl := next_inj he
    exact .inl ⟨by simp [hw], rfl, rfl, rfl⟩
  · exact .inr turn

/-- Settles O54: completion sets `DONE`, no turn of the outside world does, and three writes clear one of the two bits. -/
theorem interruptFollowsDoneAndEnable : Obligations.InterruptFollowsDoneAndEnable := by
  refine ⟨fun s => rfl, fun s t w hw hwait h => ?_, fun s t h hs ht => ?_, fun s v h hv => ?_, fun s v h hp => ?_,
    fun s v h hv => ?_⟩
  · rcases step_completes_or_hostTurn h with ⟨-, done, -, ie⟩ | ⟨moves, -⟩
    · rw [State.irq, done, ie, Bool.and_true]
    · exact absurd moves (by simp [State.hostMoves, hw, hwait])
  · rcases step_completes_or_hostTurn h with ⟨latched, -, empty, -⟩ | ⟨-, turn⟩
    · exact ⟨latched, by rw [State.busy, empty]; rfl⟩
    · exact absurd (done_of_hostTurn turn ht) (by simp [hs])
  · have cleared : (s.done && !v.getLsbD 1) = false := by simp [hv]
    exact ⟨_, step_facing_write_carried_out h rfl s.dropsWrite_status, Bool.and_eq_false_iff.2 (.inr cleared), cleared⟩
  · exact ⟨_, step_facing_write_carried_out h rfl (State.dropsWrite_idle hp (.inr rfl)), Bool.and_false _, rfl⟩
  · exact ⟨_, step_facing_write_carried_out h rfl s.dropsWrite_ctrl, Bool.and_eq_false_iff.2 (.inl hv), rfl⟩

end Sys2Proof.Machine
end

section
/-! Completion is certain (O12) and the reset input (O57): what a turn of the outside world keeps while a command waits, and
while reset is asserted (70_reset R280, R290). -/

namespace Sys2Proof.Machine

theorem step_hostMoves {s : State} (h : s.hostMoves) : step s = hostTurn s := by
  cases hp : s.pending with
  | none => exact step_idle hp
  | some w => exact step_waiting hp (h.resolve_left (by simp [hp]))

theorem hostTurn_nil {s : State} (h : s.host = []) : hostTurn s = .next s.advanced := by
  rw [hostTurn, h]

theorem hostTurn_cons {s : State} {e : HostEvent} {rest : List HostEvent} (h : s.host = e :: rest) :
    hostTurn s = serveEvent e s.advanced := by
  rw [hostTurn, h]

/-! ### While a command waits (R290) -/

/-- An access of the one width and alignment (20_memory R67), or none; no move of the reset input. -/
def HostEvent.WellShaped (e : HostEvent) : Prop :=
  e = .idle ∨ (∃ off, e = .read 4 off ∧ off.toNat % 4 = 0) ∨ ∃ off v, e = .write 4 off v ∧ off.toNat % 4 = 0

/-- `t` has the latched command of `s`, its countdown, and what is to come from outside. -/
def State.sameCommand (s t : State) : Prop :=
  t.pending = s.pending ∧ t.cmd = s.cmd ∧ t.wait = s.wait ∧ t.host = s.host ∧ t.resetLine = s.resetLine

theorem State.hostRead_sameCommand (s : State) (off : Nat) : s.sameCommand (s.hostRead off) := by
  rcases s.hostRead_cases off with h | h <;> rw [h] <;> exact ⟨rfl, rfl, rfl, rfl, rfl⟩

/-- Only a write of `CMD` touches the latch and the countdown. -/
theorem State.writeTarget_sameCommand {s : State} {x : Target} (hx : x ≠ .cmd) (v : Word) :
    s.sameCommand (s.writeTarget x v) := by
  cases x with
  | cmd => exact absurd rfl hx
  | _ => exact ⟨rfl, rfl, rfl, rfl, rfl⟩

/-- While a command is latched a write of `CMD` is dropped (20_memory R70), so that no write replaces the command. -/
theorem State.hostWrite_sameCommand {s : State} (hb : s.busy = true) (off : Nat) (v : Word) :
    s.sameCommand (s.hostWrite off v) := by
  cases hd : s.dropsWrite (target off)
  · have notCmd : target off ≠ .cmd := fun hx => by simp [hx, State.dropsWrite, hb] at hd
    rw [State.hostWrite_carried_out hd]
    exact State.writeTarget_sameCommand notCmd v
  · rw [State.hostWrite_dropped hd]
    exact ⟨rfl, rfl, rfl, rfl, rfl⟩

/-- A well-shaped event is served, and does not touch the latched command. -/
theorem serveEvent_sameCommand {s : State} {e : HostEvent} (hb : s.busy = true) (hr : s.resetLine = false)
    (he : e.WellShaped) : ∃ t, serveEvent e s = .next t ∧ s.sameCommand t := by
  rcases he with rfl | ⟨off, rfl, h4⟩ | ⟨off, v, rfl, h4⟩
  · exact ⟨s, rfl, rfl, rfl, rfl, rfl, rfl⟩
  · exact ⟨_, by simp [serveEvent, hr, accessOk, h4], s.hostRead_sameCommand off.toNat⟩
  · exact ⟨_, by simp [serveEvent, hr, accessOk, h4], State.hostWrite_sameCommand hb off.toNat v⟩

/-- While the delay has not passed, a step whose event is well-shaped only counts down. -/
theorem step_counts_down {s : State} {w : Word} (hp : s.pending = some w) (hr : s.resetLine = false) (hw : s.wait ≠ 0)
    (he : ∀ e ∈ s.host.head?, e.WellShaped) : ∃ t, step s = .next t ∧ s.advanced.sameCommand t := by
  rw [step_waiting hp hw]
  cases hh : s.host with
  | nil => exact ⟨_, hostTurn_nil hh, rfl, rfl, rfl, rfl, rfl⟩
  | cons e rest =>
    rw [hostTurn_cons hh]
    have busy : s.advanced.busy = true := by simp [State.busy, hp]
    exact serveEvent_sameCommand busy hr (he e (by simp [hh]))

/-- Once the delay has passed, the next step completes the latched word, be it a command or not. -/
theorem step_completes {s : State} {w : Word} (hp : s.pending = some w) (hw : s.wait = 0) :
    ∃ t, step s = .next t ∧ t.busy = false ∧ t.done = true ∧ t.cmd = s.cmd := by
  cases hd : decode w with
  | ok i =>
    obtain ⟨t, result, done, idle, cmd, -⟩ := everyCommandCompletes i s
    exact ⟨t, (step_command hp hw hd).trans result, idle, done, cmd⟩
  | error e => exact ⟨_, step_rejected hp hw hd, rfl, rfl, rfl⟩

/-- The run of a waiting command, by induction on its countdown. -/
theorem run_completes (n : Nat) : ∀ {s : State} {w : Word}, s.pending = some w → s.resetLine = false → s.wait = n →
    (∀ e ∈ s.host.take n, e.WellShaped) →
    ∃ t, Host.Core.run Sys2Proof.core (n + 1) s = .next t ∧ t.busy = false ∧ t.done = true ∧ t.cmd = s.cmd := by
  induction n with
  | zero =>
    intro s w hp _ hw _
    obtain ⟨t, hstep, completed⟩ := step_completes hp hw
    exact ⟨t, run_succ core 0 s t hstep, completed⟩
  | succ n ih =>
    intro s w hp hr hw he
    have now : ∀ e ∈ s.host.head?, e.WellShaped := fun e hmem =>
      he e (List.mem_of_head? (by rw [List.head?_take]; exact hmem))
    obtain ⟨u, hstep, pending, cmd, wait, host, reset⟩ := step_counts_down hp hr (by omega) now
    have later : ∀ e ∈ u.host.take n, e.WellShaped := fun e hmem => by
      rw [host, State.advanced_host] at hmem
      exact he e (List.mem_of_mem_tail ((List.tail_take_eq_take_tail s.host (n + 1)).symm ▸ hmem))
    obtain ⟨t, hrun, idle, done, same⟩ :=
      ih (pending.trans hp) (reset.trans hr) (by rw [wait, State.advanced_wait, hw]; rfl) later
    exact ⟨t, (run_succ core (n + 1) s u hstep).trans hrun, idle, done, same.trans cmd⟩

/-- Settles O12: each turn of the outside world brings the countdown one nearer to 0, where the block completes. -/
theorem latchedCommandCompletesAfterItsDelay : Obligations.LatchedCommandCompletesAfterItsDelay :=
  fun s _ hp hr he => run_completes s.wait hp hr rfl he

/-! ### The reset input (R280) -/

/-- A state held in reset serves every event, and only the reply and the reset input change. -/
theorem serveEvent_heldInReset {s : State} (hr : s.resetLine = true) (held : s.assertReset = s) (e : HostEvent) :
    ∃ t, serveEvent e s = .next t ∧ t = { s with reply := t.reply, resetLine := t.resetLine } ∧
      (t.resetLine = false ↔ e = .setReset false) := by
  cases e with
  | idle => exact ⟨s, rfl, rfl, by simp [hr]⟩
  | read | write => exact ⟨{ s with reply := .notAccepted }, if_pos hr, rfl, by simp [hr]⟩
  | setReset level =>
    cases level
    · exact ⟨_, rfl, rfl, by simp⟩
    · exact ⟨s, congrArg _ held, rfl, by simp [hr]⟩

/-- In reset there is no countdown: a turn only takes the event off the list. -/
theorem State.advanced_heldInReset {s : State} (held : s.assertReset = s) :
    s.advanced = { s with host := s.host.tail } := by
  rw [← held]
  rfl

/-- Settles O57: reset is one event, and in reset, where the invariant pins the block's state, no event changes it. -/
theorem resetInputRestoresTheResetState : Obligations.ResetInputRestoresTheResetState := by
  refine ⟨fun s rest moves hh => ?_, fun s e rest hs hr hh => ?_⟩
  · rw [step_hostMoves moves, hostTurn_cons hh]
    simp [serveEvent, State.assertReset, hh]
  · have held : s.assertReset = s := State.resetOk_iff.1 hs.resetHeld hr
    have idle : s.pending = none := congrArg State.pending held.symm
    have disabled : s.ie = false := congrArg State.ie held.symm
    have turn : s.advanced = { s with host := rest } := by rw [State.advanced_heldInReset held, hh]; rfl
    have heldNext : ({ s with host := rest } : State).assertReset = { s with host := rest } :=
      congrArg (fun u : State => { u with host := rest }) held
    obtain ⟨t, serve, ht, released⟩ := serveEvent_heldInReset (s := { s with host := rest }) hr heldNext e
    refine ⟨t, ?_, ht, released, ?_⟩
    · rw [step_idle idle, hostTurn_cons hh, turn, serve]
    · have ie : t.ie = false := (congrArg State.ie ht).trans disabled
      rw [State.irq, ie, Bool.false_and]

end Sys2Proof.Machine
end
